-- ==== Sys2Proof/Word.lean ====
section
/-! DEFINITION. The words of the CQE and its data formats: bytes, 4-bit labels, 32-bit registers (00 R6, R7, R10),
colours, working entries and centroid sums (30 R96, R98; 10 R33). -/

namespace Sys2Proof

/-- One 8-bit channel or memory byte (00 R6, `CHW`). -/
abbrev Byte := BitVec 8

/-- A 4-bit cluster label or palette index (00 R6, `IDXW`). -/
abbrev Label := BitVec 4

/-- A host-visible register (00 R7, `REGW`). -/
abbrev Reg32 := BitVec 32

/-- A 5-bit phase code, the contents of `PH` (10 R30). -/
abbrev PhCode := BitVec 5

/-- A colour: three unsigned 8-bit channels (00 R15 "Pixel color"; 30 R96). -/
structure Rgb where
  r : Byte
  g : Byte
  b : Byte
  deriving DecidableEq, Repr, Inhabited

/-- The colour (0, 0, 0). -/
def Rgb.black : Rgb := ⟨0, 0, 0⟩

/-- An entry of `WRK`: the working copy of a pixel and its label (10 R38; 30 R98). -/
structure WrkEntry where
  rgb : Rgb
  l   : Label
  deriving DecidableEq, Repr, Inhabited

/-- One accumulator: three colour sums and a pixel count (10 R33). -/
structure Acc where
  sr  : BitVec 32
  sg  : BitVec 32
  sb  : BitVec 32
  cnt : BitVec 32
  deriving DecidableEq, Repr, Inhabited

/-- The accumulator with every field 0. -/
def Acc.zero : Acc := ⟨0, 0, 0, 0⟩

/-- The four byte memories the host can reach (20 R60). -/
inductive MemName where
  | src | img | pal | dst
  deriving DecidableEq, Repr, Inhabited

end Sys2Proof
end

