-- ==== Sys2Proof/Config.lean ====
section
/-! DEFINITION. What an implementation fixes (00 R6, R7) and the free values, which nothing in Lean can evaluate. -/

namespace Sys2Proof.Config

/-- `K`, the number of clusters, centroids and palette entries (00 R6). -/
abbrev k : Nat := 16

/-- `MAXROUNDS`, the cap on k-means rounds (00 R6). -/
abbrev maxRounds : BitVec 5 := 24

/-- `WR`, `WG`, `WB`, the luminance weights times 1000 (00 R6). -/
abbrev wr : Nat := 299
/-- See `wr`. -/
abbrev wg : Nat := 587
/-- See `wr`. -/
abbrev wb : Nat := 114

/-- `PALBYTES`, the size of `PAL` (00 R6). -/
abbrev palBytes : Nat := 48

/-- `OPAQUE`, the alpha the renderer writes (00 R6). -/
abbrev opaqueAlpha : Byte := 0xFF

/-- Half of `MAXPIX`, less one. Open (00 R7; 92 D6): no body, so a claim holds for every legal `MAXPIX`.
DESIGN CHOICE, log 1. -/
opaque halfMaxPix : Fin 8388608

/-- `MAXPIX`: each even number from 2 to 2^24 is the value for exactly one `halfMaxPix` (00 R7). DESIGN CHOICE, log 1. -/
def maxPix : Nat := 2 * (halfMaxPix.val + 1)

/-- FREE VALUE. The byte that address `a` of memory `m` holds after reset number `epoch` until it is written
(10 R46; 93 U8). DESIGN CHOICE, log 2. -/
opaque powerOnByte (epoch : Nat) (m : MemName) (a : Nat) : Byte

/-- FREE VALUE. The same for entry `i` of `WRK` (10 R46). DESIGN CHOICE, log 3. -/
opaque powerOnWrk (epoch : Nat) (i : Nat) : WrkEntry

/-- FREE VALUE. The unspecified bytes of a busy memory read (20 R65; DESIGN CHOICE, log 9) and of an interrupted
command's outputs (70 R247; DESIGN CHOICE, log 13), one for each index. -/
opaque freeByte (index : Nat) : Byte

/-- FREE VALUE. What the label source answers to request `index` when no answer stands in `State.draws`
(10 R44). DESIGN CHOICE, log 8. -/
opaque freeDraw (index : Nat) : Label

/-- FREE VALUE. `mean8 s c` where 41 R148 gives no result, that is, for `c = 0` or `s > 255 * c`.
DESIGN CHOICE, log 10. -/
opaque meanOutOfDomain (s c : BitVec 32) : Byte

end Sys2Proof.Config
end

