-- ==== Sys2Proof/Syntax.lean ====
section
/-! DEFINITION. The instructions: one constructor for each row of spec/opcode_table.json, in its order. Three host
commands (30 R93) and nineteen sequencer phases (30 R100). No instruction has an operand field (30 R94). -/

namespace Sys2Proof

/-- The instructions of the CQE. -/
inductive Instr where
  | nop | quantize | render
  | idle | argchk | copy | seed | clrcent | clracc | accum | mean | assign | roundend
  | palout | pack | luma | darkest | blackswap | lutgen | relabel | expand | finish
  deriving DecidableEq, Repr

/-- The two kinds of instruction (30 R90). -/
inductive Format where
  | cmd | uop
  deriving DecidableEq, Repr

/-- Which kind an instruction is (30 R93, R100). -/
def Instr.format : Instr → Format
  | .nop => .cmd
  | .quantize => .cmd
  | .render => .cmd
  | .idle => .uop
  | .argchk => .uop
  | .copy => .uop
  | .seed => .uop
  | .clrcent => .uop
  | .clracc => .uop
  | .accum => .uop
  | .mean => .uop
  | .assign => .uop
  | .roundend => .uop
  | .palout => .uop
  | .pack => .uop
  | .luma => .uop
  | .darkest => .uop
  | .blackswap => .uop
  | .lutgen => .uop
  | .relabel => .uop
  | .expand => .uop
  | .finish => .uop

end Sys2Proof
end

