-- ==== Sys2Proof/WellFormed.lean ====
section
/-! DEFINITION. Well-formed instructions. No instruction of the CQE has an operand, an immediate or a mode field
(30 R92, R94), so there is nothing to check and every constructor is well formed. What can be ill formed is a host
access (its width, alignment and address); those checks are `regAccessOk` and `memAccessOk` of Machine/Ops.lean
(20 R63, R64). -/

namespace Sys2Proof

/-- Every instruction is well formed: there is no operand to check (30 R94). -/
def Instr.wf : Instr → Bool
  | .nop => true
  | .quantize => true
  | .render => true
  | .idle => true
  | .argchk => true
  | .copy => true
  | .seed => true
  | .clrcent => true
  | .clracc => true
  | .accum => true
  | .mean => true
  | .assign => true
  | .roundend => true
  | .palout => true
  | .pack => true
  | .luma => true
  | .darkest => true
  | .blackswap => true
  | .lutgen => true
  | .relabel => true
  | .expand => true
  | .finish => true

end Sys2Proof
end

