-- ==== Sys2Proof/Decode.lean ====
section
/-! DEFINITION. The encodings: the command word (30 R92, R93) and the phase code (30 R100), the decoder, total and
rejecting by name (30 R91, R101), and after it the encoder. -/

namespace Sys2Proof

/-! The phase codes of 30 R100. -/
namespace PhaseCode
abbrev idle : PhCode := 0x00
abbrev argchk : PhCode := 0x01
abbrev copy : PhCode := 0x02
abbrev seed : PhCode := 0x03
abbrev clrcent : PhCode := 0x04
abbrev clracc : PhCode := 0x05
abbrev accum : PhCode := 0x06
abbrev mean : PhCode := 0x07
abbrev assign : PhCode := 0x08
abbrev roundend : PhCode := 0x09
abbrev palout : PhCode := 0x0A
abbrev pack : PhCode := 0x0B
abbrev luma : PhCode := 0x0C
abbrev darkest : PhCode := 0x0D
abbrev blackswap : PhCode := 0x0E
abbrev lutgen : PhCode := 0x0F
abbrev relabel : PhCode := 0x10
abbrev expand : PhCode := 0x11
abbrev finish : PhCode := 0x12
end PhaseCode

/-- Why a word is no instruction. -/
inductive DecodeError where
  /-- A word written to `CMD` that is no command (30 R101). -/
  | illegalCommand
  /-- A phase code above 0x12, which `PH` never holds (30 R100). -/
  | reservedPhase
  deriving DecidableEq, Repr

/-- A row of an encoding table: `w` is the instruction exactly when `w &&& mask = pattern` (30 R93, R100). -/
structure Row (width : Nat) where
  pattern : BitVec width
  mask    : BitVec width
  instr   : Instr
  deriving DecidableEq, Repr

/-- Whether the word is the row's instruction. -/
def rowMatches {width : Nat} (w : BitVec width) (r : Row width) : Bool := w &&& r.mask == r.pattern

/-- The commands (30 R93). -/
def cmdTable : List (Row 32) :=
  [⟨0x00000000, 0xFFFFFFFF, .nop⟩,
   ⟨0x00000001, 0xFFFFFFFF, .quantize⟩,
   ⟨0x00000002, 0xFFFFFFFF, .render⟩]

/-- The phases (30 R100). -/
def uopTable : List (Row 5) :=
  [⟨PhaseCode.idle, 0x1F, .idle⟩,
   ⟨PhaseCode.argchk, 0x1F, .argchk⟩,
   ⟨PhaseCode.copy, 0x1F, .copy⟩,
   ⟨PhaseCode.seed, 0x1F, .seed⟩,
   ⟨PhaseCode.clrcent, 0x1F, .clrcent⟩,
   ⟨PhaseCode.clracc, 0x1F, .clracc⟩,
   ⟨PhaseCode.accum, 0x1F, .accum⟩,
   ⟨PhaseCode.mean, 0x1F, .mean⟩,
   ⟨PhaseCode.assign, 0x1F, .assign⟩,
   ⟨PhaseCode.roundend, 0x1F, .roundend⟩,
   ⟨PhaseCode.palout, 0x1F, .palout⟩,
   ⟨PhaseCode.pack, 0x1F, .pack⟩,
   ⟨PhaseCode.luma, 0x1F, .luma⟩,
   ⟨PhaseCode.darkest, 0x1F, .darkest⟩,
   ⟨PhaseCode.blackswap, 0x1F, .blackswap⟩,
   ⟨PhaseCode.lutgen, 0x1F, .lutgen⟩,
   ⟨PhaseCode.relabel, 0x1F, .relabel⟩,
   ⟨PhaseCode.expand, 0x1F, .expand⟩,
   ⟨PhaseCode.finish, 0x1F, .finish⟩]

/-- The command a 32-bit word written to `CMD` is, or the rejection by name (30 R91 to R93, R101). -/
def decodeCmd (w : BitVec 32) : Except DecodeError Instr :=
  match cmdTable.find? (rowMatches w) with
  | some r => .ok r.instr
  | none => .error .illegalCommand

/-- The phase a 5-bit code in `PH` names, or the rejection by name (30 R100). -/
def decodeUop (c : PhCode) : Except DecodeError Instr :=
  match uopTable.find? (rowMatches c) with
  | some r => .ok r.instr
  | none => .error .reservedPhase

/-- An encoded instruction of either format (30 R90). -/
inductive CodeWord where
  | cmd (w : BitVec 32)
  | uop (c : PhCode)
  deriving DecidableEq, Repr

/-- The decoder. -/
def decode : CodeWord → Except DecodeError Instr
  | .cmd w => decodeCmd w
  | .uop c => decodeUop c

/-- The encoder, written from 30 R93 and R100. -/
def encode : Instr → CodeWord
  | .nop => .cmd 0x00000000
  | .quantize => .cmd 0x00000001
  | .render => .cmd 0x00000002
  | .idle => .uop 0x00
  | .argchk => .uop 0x01
  | .copy => .uop 0x02
  | .seed => .uop 0x03
  | .clrcent => .uop 0x04
  | .clracc => .uop 0x05
  | .accum => .uop 0x06
  | .mean => .uop 0x07
  | .assign => .uop 0x08
  | .roundend => .uop 0x09
  | .palout => .uop 0x0A
  | .pack => .uop 0x0B
  | .luma => .uop 0x0C
  | .darkest => .uop 0x0D
  | .blackswap => .uop 0x0E
  | .lutgen => .uop 0x0F
  | .relabel => .uop 0x10
  | .expand => .uop 0x11
  | .finish => .uop 0x12

/-- The instruction the decoder reads from `w`, numbered as spec/opcode_table.json numbers its bits: a row of at
most one byte is a phase code (format `UOP`, 5 bits), a longer one a command word (format `CMD`, 32 bits). A number
too wide for its format is no instruction. DESIGN CHOICE, log 14. -/
def decodeTableWord (nbits w : Nat) : Option Instr :=
  if nbits ≤ 8 then
    if w < 32 then (decodeUop (BitVec.ofNat 5 w)).toOption else none
  else
    if w < 4294967296 then (decodeCmd (BitVec.ofNat 32 w)).toOption else none

end Sys2Proof
end

