-- ==== Sys2Proof/Machine/State.lean ====
section
/-! DEFINITION. The state of the CQE (10 R20 to R46), the reasons a step can stop, the host's events, and the state
right after reset. -/

namespace Sys2Proof.Machine

/-- A memory: the cells written since reset, addresses strictly rising. An unlisted cell holds what reset left there,
which the spec does not choose (10 R46): no value here, a free value where it is read. A `Memory Byte` is a list of
`Host.Cell`. DESIGN CHOICE, log 2, log 3. -/
abbrev Memory (α : Type) := List (Nat × α)

/-- The stored fields of `STATUS` (10 R23). `PHASE` is a view of `PH` (10 R30; DEDUCED, log 16) and the reserved bits read 0
(10 R27). -/
structure Status where
  busy    : Bool
  done    : Bool
  err     : Bool
  errCode : BitVec 4
  errInfo : BitVec 4
  deriving DecidableEq, Repr

/-- `ITER` (10 R25). -/
structure Iter where
  rounds : BitVec 5
  conv   : Bool
  deriving DecidableEq, Repr

/-- The width of a host access (20 R63, R64). -/
inductive Width where
  | w8 | w16 | w32
  deriving DecidableEq, Repr

/-- A transaction of the host (30 R104; 20 R63 to R65), or its reset input (70 R245). -/
inductive Txn where
  /-- `RD`: a read of the register block at byte offset `off`. -/
  | regRead (width : Width) (off : Nat)
  /-- `WR`: a write of the register block; `w` is the word of a 32-bit access. -/
  | regWrite (width : Width) (off : Nat) (w : Reg32)
  /-- `RB`: a read of a memory at byte address `a`. -/
  | memRead (m : MemName) (width : Width) (a : Nat)
  /-- `WB`: a write of a memory; `v` is the byte of an 8-bit access. -/
  | memWrite (m : MemName) (width : Width) (a : Nat) (v : Byte)
  /-- Any access aimed at `WRK`, which the host cannot reach (20 R64; 93 U11). -/
  | wrkAccess
  /-- The reset input is asserted and released (70 R245, R247). -/
  | resetInput
  deriving DecidableEq, Repr

/-- What happens next, as the host and the scheduler decide it. DESIGN CHOICE, log 5, log 6. -/
inductive HostEvent where
  /-- The host performs a transaction. -/
  | txn (t : Txn)
  /-- The host does nothing and the engine takes its step. -/
  | engine
  /-- `WAIT` (30 R105): read `STATUS` until `BUSY = 0`. -/
  | wait
  deriving DecidableEq, Repr

/-- What the bus hands the host. The CQE fixes only the data of an admitted read; the other names are the model's
own labels (93 U11). DESIGN CHOICE, log 7. -/
inductive Reply where
  /-- An admitted write, performed or ignored without any sign (60 R220). -/
  | written
  /-- The word of an admitted register read (20 R63). -/
  | word (w : Reg32)
  /-- The byte of an admitted memory read (20 R64, R65). -/
  | byte (b : Byte)
  /-- A refused access: not performed (20 R63, R64). -/
  | refused
  /-- An offset outside the register block: not an access to the CQE (10 R27). -/
  | notSelected
  deriving DecidableEq, Repr

/-- Why the machine stops. No run from reset reaches either. -/
inductive Fault where
  /-- Raised by the fetch of a phase whose code in `PH` is above 0x12, which `PH` never holds (10 R30; 30 R100).
  Safe: the model stops where the spec has no such state. DEDUCED, log 12. -/
  | reservedPhase
  /-- Raised by a phase that would reach beyond a memory because `NUMPIX > MAXPIX`, which `ARGCHK` rules out
  (20 R68). Safe. DEDUCED, log 11. -/
  | engineAddress
  deriving DecidableEq, Repr

/-- Why a step is refused. -/
inductive Refusal where
  /-- Raised by `exec` for an instruction that has no meaning yet. Safe. No arm raises it. -/
  | notModelled (mnemonic : String)
  deriving DecidableEq, Repr

/-- The state of the CQE (10 R20), and after it the model's own fields: the host's events and replies, the answers
of the label source, and the counters of the free values. -/
structure State where
  /-- `STATUS` (10 R23). -/
  status  : Status
  /-- `NUMPIX` (10 R24). -/
  numpix  : Reg32
  /-- `ITER` (10 R25). -/
  iter    : Iter
  /-- `DARK.IDX` (10 R26). -/
  dark    : Label
  /-- `PH`, the program counter (10 R30). -/
  ph      : PhCode
  /-- `OP` (10 R31). -/
  op      : BitVec 2
  /-- `CHANGED` (10 R29). -/
  changed : Bool
  /-- `BEST` (10 R36). -/
  best    : Label
  /-- `BESTD` (10 R36). -/
  bestd   : BitVec 18
  /-- `CENT` (10 R32). -/
  cent    : Vector Rgb 16
  /-- `ACC` (10 R33). -/
  acc     : Vector Acc 16
  /-- `LUM` (10 R34). -/
  lum     : Vector (BitVec 18) 16
  /-- `LUT` (10 R35). -/
  lut     : Vector Byte 256
  /-- `SRC` (10 R37). -/
  src     : Memory Byte
  /-- `WRK` (10 R38). -/
  wrk     : Memory WrkEntry
  /-- `IMG` (10 R39). -/
  img     : Memory Byte
  /-- `PAL` (10 R40). -/
  pal     : Memory Byte
  /-- `DST` (10 R41). -/
  dst     : Memory Byte
  /-- MODEL'S OWN. The events still to come; when there is none the engine moves (DESIGN CHOICE, log 5). -/
  script  : List HostEvent
  /-- MODEL'S OWN. What the host has been handed, newest first (DESIGN CHOICE, log 7). -/
  replies : List Reply
  /-- MODEL'S OWN. The label source's answers, next first (DESIGN CHOICE, log 8). -/
  draws   : List Label
  /-- MODEL'S OWN. The index of the next free value (DESIGN CHOICE, log 8, 9, 13). -/
  fresh   : Nat
  /-- MODEL'S OWN. Which reset left the unlisted bytes (DESIGN CHOICE, log 2, 13). -/
  epoch   : Nat
  /-- MODEL'S OWN. Which reset left the unlisted entries of `WRK` (DESIGN CHOICE, log 3, 13). -/
  wrkEpoch : Nat
  deriving DecidableEq, Repr

/-- The machine right after reset (10 R46). `OP`, `CHANGED`, `BEST`, `BESTD`, `CENT`, `ACC`, `LUM`, `LUT` have no
reset value in the spec: DESIGN CHOICE, zero (log 4). -/
def State.reset : State where
  status  := ⟨false, false, false, 0, 0⟩
  numpix  := 0
  iter    := ⟨0, false⟩
  dark    := 0
  ph      := PhaseCode.idle
  op      := 0
  changed := false
  best    := 0
  bestd   := 0
  cent    := Vector.replicate 16 Rgb.black
  acc     := Vector.replicate 16 Acc.zero
  lum     := Vector.replicate 16 0
  lut     := Vector.replicate 256 0
  src     := []
  wrk     := []
  img     := []
  pal     := []
  dst     := []
  script  := []
  replies := []
  draws   := []
  fresh   := 0
  epoch   := 0
  wrkEpoch := 0

end Sys2Proof.Machine
end

