-- ==== Sys2Proof/Machine/Flags.lean ====
section
/-! DEFINITION. The status flags and the words the host reads of `STATUS`, `ITER` and `DARK` (10 R23, R25 to R28). -/

namespace Sys2Proof.Machine

/-- What the acceptance of any word clears: `DONE`, `ERR`, `ERRCODE`, `ERRINFO` (40 R120). -/
def State.clearFlags (s : State) : State :=
  { s with status := { s.status with done := false, err := false, errCode := 0, errInfo := 0 } }

/-- `STATUS.DONE <- 1` (40 R121). -/
def State.setDone (s : State) : State :=
  { s with status := { s.status with done := true } }

/-- `STATUS.BUSY <- 0; STATUS.DONE <- 1` (40 R127). -/
def State.endBusy (s : State) : State :=
  { s with status := { s.status with busy := false, done := true } }

/-- One bit. -/
def bit (b : Bool) : BitVec 1 := BitVec.ofBool b

/-- `STATUS` as the host reads it (10 R23): `BUSY` at bit 0, `DONE` 1, `ERR` 2, `ERRCODE` 7:4, `ERRINFO` 11:8,
`PHASE` 16:12, the rest 0. -/
def State.statusWord (s : State) : Reg32 :=
  (0 : BitVec 15) ++ s.ph ++ s.status.errInfo ++ s.status.errCode ++ (0 : BitVec 1) ++
    bit s.status.err ++ bit s.status.done ++ bit s.status.busy

/-- `ITER` as the host reads it (10 R25): `ROUNDS` 4:0, `CONV` 8, the rest 0. -/
def State.iterWord (s : State) : Reg32 :=
  (0 : BitVec 23) ++ bit s.iter.conv ++ (0 : BitVec 3) ++ s.iter.rounds

/-- `DARK` as the host reads it (10 R26): `IDX` 3:0, the rest 0. -/
def State.darkWord (s : State) : Reg32 :=
  (0 : BitVec 28) ++ s.dark

end Sys2Proof.Machine
end

