-- ==== Sys2Proof/Machine/Ops.lean ====
section
/-! DEFINITION. The named operations: the pseudocode's loop, the memories, the host's access checks, the phase
register, error entry (60 R221) and, beside it, the acceptance that clears it (40 R120), the draws, and reset. -/

namespace Sys2Proof.Machine

/-- The answer of a step. -/
abbrev Answer := Host.Outcome State Fault Refusal

/-- `for i in 0 .. n-1: body` (00 R13): `body` for 0 first, for `n - 1` last, nothing if `n = 0`. -/
def loop {σ : Type} : Nat → (Nat → σ → σ) → σ → σ
  | 0, _, s => s
  | n + 1, body, s => body n (loop n body s)

/-- The value listed for an address, if one is. -/
def Memory.get? {α : Type} : Memory α → Nat → Option α
  | [], _ => none
  | (b, v) :: rest, a => if a = b then some v else Memory.get? rest a

/-- List a value for an address, keeping the addresses in rising order. -/
def Memory.put {α : Type} : Memory α → Nat → α → Memory α
  | [], a, v => [(a, v)]
  | (b, w) :: rest, a, v =>
    if a < b then (a, v) :: (b, w) :: rest
    else if a = b then (a, v) :: rest
    else (b, w) :: Memory.put rest a v

/-- The canonical form: addresses strictly rising. (An unlisted address has no value, so no entry can repeat one.) -/
abbrev Memory.wf {α : Type} (m : Memory α) : Prop := m.Pairwise (fun x y => x.1 < y.1)

/-- Every listed address is below `size`. -/
abbrev Memory.below {α : Type} (m : Memory α) (size : Nat) : Prop := ∀ x ∈ m, x.1 < size

/-- The canonical form and the bound in one: what every memory of the CQE keeps. -/
abbrev Memory.Ok {α : Type} (m : Memory α) (size : Nat) : Prop := m.wf ∧ m.below size

/-- The size of a byte memory in bytes (20 R60). -/
def memSize : MemName → Nat
  | .src => 4 * Config.maxPix
  | .img => Config.maxPix / 2
  | .pal => Config.palBytes
  | .dst => 4 * Config.maxPix

/-- A register access the CQE performs: 32 bits, at a multiple of 4 (20 R63). -/
def regAccessOk (width : Width) (off : Nat) : Bool := width == .w32 && off % 4 == 0

/-- A memory access the CQE performs: one byte, below the memory's size (20 R64). -/
def memAccessOk (m : MemName) (width : Width) (a : Nat) : Bool := width == .w8 && decide (a < memSize m)

/-- A byte memory by name. -/
def State.mem (s : State) : MemName → Memory Byte
  | .src => s.src
  | .img => s.img
  | .pal => s.pal
  | .dst => s.dst

/-- Replace a byte memory. -/
def State.setMem (s : State) (m : MemName) (c : Memory Byte) : State :=
  match m with
  | .src => { s with src := c }
  | .img => { s with img := c }
  | .pal => { s with pal := c }
  | .dst => { s with dst := c }

/-- The byte at `a` when memory `m` holds the cells `c`: the one written there, or the one reset left (20 R64). -/
def State.byteIn (s : State) (m : MemName) (c : Memory Byte) (a : Nat) : Byte :=
  (c.get? a).getD (Config.powerOnByte s.epoch m a)

/-- `MemRead(m, a, 1)` (00 R12). -/
def State.memRead (s : State) (m : MemName) (a : Nat) : Byte := s.byteIn m (s.mem m) a

/-- `MemWrite(m, a, 1, v)` (00 R12). -/
def State.memWrite (s : State) (m : MemName) (a : Nat) (v : Byte) : State := s.setMem m ((s.mem m).put a v)

/-- Entry `i` when `WRK` holds the cells `c`. -/
def State.wrkIn (s : State) (c : Memory WrkEntry) (i : Nat) : WrkEntry :=
  (c.get? i).getD (Config.powerOnWrk s.wrkEpoch i)

/-- `WRK[i]` (00 R11). -/
def State.wrkRead (s : State) (i : Nat) : WrkEntry := s.wrkIn s.wrk i

/-- `x[k]` for a file of sixteen (00 R11). -/
def fileGet {α : Type} (v : Vector α 16) (k : Label) : α := v[k.toNat]'k.isLt

/-- `x[k] <- a` for a file of sixteen (00 R11). -/
def fileSet {α : Type} (v : Vector α 16) (k : Label) (a : α) : Vector α 16 := v.set k.toNat a k.isLt

/-- `PH <- c` (00 R13). -/
def State.goto (s : State) (c : PhCode) : State := { s with ph := c }

/-- TAKING AN EXCEPTION: `raise` (60 R221). The code and the sub-cause go to `STATUS`, `ERR` is set, `BUSY` and
`DONE` are cleared, the engine is in `IDLE`; nothing else is saved and control goes nowhere. -/
def State.raise (s : State) (code info : BitVec 4) : State :=
  { s with
    status := { busy := false, done := false, err := true, errCode := code, errInfo := info }
    ph := PhaseCode.idle }

/-- `raise InvalidArgument(info)` (60 R216, R217). -/
def State.raiseInvalidArgument (s : State) (info : BitVec 4) : State := s.raise 1 info

/-- `raise IllegalCommand()` (60 R216, R218). -/
def State.raiseIllegalCommand (s : State) : State := s.raise 2 0

/-- Command acceptance (40 R120). With `BUSY = 1` the written word does nothing (10 R22); with `BUSY = 0` the result
of the last command is cleared, which is all the return from an exception there is (60 R222), and the word acts. -/
def State.accept (s : State) (act : State → State) : State :=
  if s.status.busy then s else act s.clearFlags

/-- The start of `QUANTIZE` or `RENDER` at acceptance (40 R120): `OP <- w[1:0]; STATUS.BUSY <- 1; PH <- ARGCHK`. -/
def State.start (s : State) (op : BitVec 2) : State :=
  { s with op := op, status := { s.status with busy := true }, ph := PhaseCode.argchk }

/-- A phase that reaches into the memories runs on `n = NUMPIX` pixels. After `ARGCHK` every address is in range
(20 R68); where `NUMPIX > MAXPIX`, which no run reaches, it stops. DEDUCED, log 11. -/
def State.forImage (s : State) (act : Nat → State) : Answer :=
  if s.numpix.toNat ≤ Config.maxPix then .next (act s.numpix.toNat) else .fault .engineAddress

/-- `Draw(i)`, the source's answer to request `i` of the running command (10 R44): the answer given as input, or a
free value. DESIGN CHOICE, log 8. -/
def State.draw (s : State) (i : Nat) : Label :=
  (s.draws[i]?).getD (Config.freeDraw (s.fresh + i))

/-- `n` requests have been answered. -/
def State.dropDraws (s : State) (n : Nat) : State :=
  { s with draws := s.draws.drop n, fresh := s.fresh + n }

/-- Hand the host a reply. -/
def State.reply (s : State) (r : Reply) : State := { s with replies := r :: s.replies }

/-- The first `count` bytes of a memory become free values, those from index `first` on (70 R247). -/
def scramble (c : Memory Byte) (first count : Nat) : Memory Byte :=
  loop count (fun a c => c.put a (Config.freeByte (first + a))) c

/-- The registers as after any reset; the memories and the model's own fields as they were. -/
def State.resetRegs (s : State) : State :=
  { State.reset with
    src := s.src, wrk := s.wrk, img := s.img, pal := s.pal, dst := s.dst,
    script := s.script, replies := s.replies, draws := s.draws,
    fresh := s.fresh, epoch := s.epoch, wrkEpoch := s.wrkEpoch }

/-- Reset with `BUSY = 0` (70 R245; 10 R46): every byte of every memory is unspecified anew. DESIGN CHOICE, log 13. -/
def State.resetIdle (s : State) : State :=
  { s.resetRegs with
    src := [], wrk := [], img := [], pal := [], dst := [],
    epoch := s.epoch + 1, wrkEpoch := s.wrkEpoch + 1 }

/-- How many bytes of `IMG` a `QUANTIZE` of `NUMPIX` pixels may write. -/
def State.imgBytes (s : State) : Nat := min (s.numpix.toNat / 2) (memSize .img)

/-- How many bytes of `DST` a `RENDER` of `NUMPIX` pixels may write. -/
def State.dstBytes (s : State) : Nat := min (4 * s.numpix.toNat) (memSize .dst)

/-- Reset with `BUSY = 1` (70 R247): the bytes the command was entitled to write are unspecified, `SRC` and all other
bytes are unchanged. DESIGN CHOICE, log 13. -/
def State.resetBusy (s : State) : State :=
  let r : State := { s.resetRegs with wrk := [], wrkEpoch := s.wrkEpoch + 1 }
  if s.op = 1 then
    { r with
      img := scramble s.img s.fresh s.imgBytes
      pal := scramble s.pal (s.fresh + s.imgBytes) Config.palBytes
      fresh := s.fresh + s.imgBytes + Config.palBytes }
  else if s.op = 2 then
    { r with dst := scramble s.dst s.fresh s.dstBytes, fresh := s.fresh + s.dstBytes }
  else r

/-- The reset input (70 R245, R247). -/
def State.takeReset (s : State) : State :=
  if s.status.busy then s.resetBusy else s.resetIdle

end Sys2Proof.Machine
end

