-- ==== Sys2Proof/Machine/Operands.lean ====
section
/-! DEFINITION. The operand forms: the addresses of 20 R70, pixels and palette entries (30 R95, R96), and the nibbles
of a packed byte (30 R97; 42 R172, R173). -/

namespace Sys2Proof.Machine

/-- The byte address of channel `c` of pixel `i` in `SRC` and `DST` (20 R70; 30 R95). -/
def pixAddr (i c : Nat) : Nat := 4 * i + c

/-- The byte address of channel `c` of palette entry `k` in `PAL` (20 R70; 30 R96). -/
def palAddr (k : Label) (c : Nat) : Nat := 3 * k.toNat + c

/-- The colour of pixel `i` of `SRC`; the alpha byte is not read (41 R141). -/
def State.srcPixel (s : State) (i : Nat) : Rgb :=
  ⟨s.memRead .src (pixAddr i 0), s.memRead .src (pixAddr i 1), s.memRead .src (pixAddr i 2)⟩

/-- Entry `k` of the palette (30 R96). -/
def State.palEntry (s : State) (k : Label) : Rgb :=
  ⟨s.memRead .pal (palAddr k 0), s.memRead .pal (palAddr k 1), s.memRead .pal (palAddr k 2)⟩

/-- Write a colour as entry `k` of the palette (42 R170). -/
def putPalEntry (c : Memory Byte) (k : Label) (p : Rgb) : Memory Byte :=
  ((c.put (palAddr k 0) p.r).put (palAddr k 1) p.g).put (palAddr k 2) p.b

/-- Write a colour and an alpha as pixel `i` (44 R206). -/
def putPixel (c : Memory Byte) (i : Nat) (p : Rgb) (alpha : Byte) : Memory Byte :=
  (((c.put (pixAddr i 0) p.r).put (pixAddr i 1) p.g).put (pixAddr i 2) p.b).put (pixAddr i 3) alpha

/-- Bits 7:4, the even pixel (30 R97). -/
def hiNibble (b : Byte) : Label := b.extractLsb' 4 4

/-- Bits 3:0, the odd pixel (30 R97). -/
def loNibble (b : Byte) : Label := b.extractLsb' 0 4

/-- The byte with nibbles `h` and `l`: `{h, l}` (00 R10). -/
def packByte (h l : Label) : Byte := h ++ l

/-- `getnib(M, i)` (42 R172), `M` given by what it holds at each address. -/
def getnib (M : Nat → Byte) (i : Nat) : Label :=
  if i % 2 = 0 then hiNibble (M (i / 2)) else loNibble (M (i / 2))

/-- `setnib(b, i, v)` (42 R173). -/
def setnib (b : Byte) (i : Nat) (v : Label) : Byte :=
  if i % 2 = 0 then packByte v (loNibble b) else packByte (hiNibble b) v

end Sys2Proof.Machine
end

