-- ==== Sys2Proof/Machine/Commands.lean ====
section
/-! DEFINITION. The host commands and the sequencer's control phases: NOP, QUANTIZE, RENDER, IDLE, ARGCHK, FINISH
(40 R120 to R127; 44 R205). A command's meaning is its acceptance; the work is done by the phases, one step each
(40 R122, R124). -/

namespace Sys2Proof.Machine

/-- `NOP` (40 R121): after the clearing of 40 R120, `DONE <- 1`. -/
def execNop (s : State) : Answer := .next (s.accept State.setDone)

/-- `QUANTIZE` (40 R120, R122): `OP <- 1`, `BUSY <- 1`, `PH <- ARGCHK`. -/
def execQuantize (s : State) : Answer := .next (s.accept fun s => s.start 1)

/-- `RENDER` (40 R120; 44 R205): `OP <- 2`, `BUSY <- 1`, `PH <- ARGCHK`. -/
def execRender (s : State) : Answer := .next (s.accept fun s => s.start 2)

/-- `IDLE` (40 R120): the engine has no step of its own and waits. DEDUCED, log 15. -/
def execIdle (s : State) : Answer := .next s

/-- What `ARGCHK` finds wrong with `n` pixels, as the sub-cause: 1 zero, 2 odd, 3 too large, in that order
(40 R123; 60 R219). -/
def argError (maxPix n : Nat) : Option (BitVec 4) :=
  if n = 0 then some 1
  else if n % 2 = 1 then some 2
  else if n > maxPix then some 3
  else none

/-- `ARGCHK` (40 R123). DEDUCED, log 21 for `OP`. -/
def execArgchk (s : State) : Answer :=
  match argError Config.maxPix s.numpix.toNat with
  | some info => .next (s.raiseInvalidArgument info)
  | none => .next (s.goto (if s.op = 1 then PhaseCode.copy else PhaseCode.expand))

/-- `FINISH` (40 R127), one atomic step. -/
def execFinish (s : State) : Answer := .next (s.endBusy.goto PhaseCode.idle)

end Sys2Proof.Machine
end

