-- ==== Sys2Proof/Machine/Darkest.lean ====
section
/-! DEFINITION. Darkest colour to slot 0: LUMA, DARKEST, BLACKSWAP, LUTGEN, RELABEL (43 R185 to R196). -/

namespace Sys2Proof.Machine

/-- `luma1000(c)` (43 R186). -/
def luma1000 (c : Rgb) : Nat := Config.wr * c.r.toNat + Config.wg * c.g.toNat + Config.wb * c.b.toNat

/-- `LUMA` (43 R187). -/
def execLuma (s : State) : Answer :=
  .next ({ s with
    lum := Vector.ofFn fun k : Fin 16 => BitVec.ofNat 18 (luma1000 (s.palEntry (BitVec.ofNat 4 k.val))) }.goto
      PhaseCode.darkest)

/-- `darkest(Y)`: the scan of 43 R188. -/
def darkest (Y : Vector (BitVec 18) 16) : Label :=
  loop 15 (fun j (d : Label) =>
    let k : Label := BitVec.ofNat 4 (j + 1)
    if fileGet Y k < fileGet Y d then k else d) 0

/-- `DARKEST` (43 R189). -/
def execDarkest (s : State) : Answer := .next ({ s with dark := darkest s.lum }.goto PhaseCode.blackswap)

/-- Entry `d` becomes black (43 R190). -/
def blacken (c : Memory Byte) (d : Label) : Memory Byte := putPalEntry c d Rgb.black

/-- Exchange entries 0 and `d`, a channel at a time (43 R190). -/
def State.swapEntries (s : State) (c : Memory Byte) (d : Label) : Memory Byte :=
  loop 3 (fun ch c =>
    let t := s.byteIn .pal c (palAddr 0 ch)
    let u := s.byteIn .pal c (palAddr d ch)
    (c.put (palAddr 0 ch) u).put (palAddr d ch) t) c

/-- `BLACKSWAP` (43 R190). -/
def execBlackswap (s : State) : Answer :=
  let c := blacken s.pal s.dark
  .next ({ s with pal := if s.dark = 0 then c else s.swapEntries c s.dark }.goto PhaseCode.lutgen)

/-- `swapidx(d, v)` (43 R192). -/
def swapidx (d v : Label) : Label := if v = 0 then d else if v = d then 0 else v

/-- `lutbyte(d, b)` (43 R193). -/
def lutbyte (d : Label) (b : Byte) : Byte := packByte (swapidx d (hiNibble b)) (swapidx d (loNibble b))

/-- `LUTGEN` (43 R194). -/
def execLutgen (s : State) : Answer :=
  .next ({ s with lut := Vector.ofFn fun b : Fin 256 => lutbyte s.dark (BitVec.ofNat 8 b.val) }.goto
    PhaseCode.relabel)

/-- `LUT[b]` (10 R35). -/
def State.lutAt (s : State) (b : Byte) : Byte := s.lut[b.toNat]'b.isLt

/-- The image with every byte replaced through the table (43 R195). -/
def State.relabelImg (s : State) (n : Nat) : Memory Byte :=
  loop (n / 2) (fun j c => c.put j (s.lutAt (s.byteIn .img c j))) s.img

/-- `RELABEL` (43 R195). -/
def execRelabel (s : State) : Answer := s.forImage fun n => { s with img := s.relabelImg n }.goto PhaseCode.finish

end Sys2Proof.Machine
end

