-- ==== Sys2Proof/Machine/Kmeans.lean ====
section
/-! DEFINITION. The k-means phases: COPY, SEED, CLRCENT, CLRACC, ACCUM, MEAN, ASSIGN, ROUNDEND (41 R140 to R157). -/

namespace Sys2Proof.Machine

/-- `COPY` on `n` pixels: the colours of `SRC` into `WRK`, the labels left (41 R141). -/
def State.copyWrk (s : State) (n : Nat) : Memory WrkEntry :=
  loop n (fun i w => w.put i { s.wrkIn w i with rgb := s.srcPixel i }) s.wrk

/-- `COPY` (41 R141). -/
def execCopy (s : State) : Answer :=
  s.forImage fun n => { s with wrk := s.copyWrk n }.goto PhaseCode.seed

/-- `SEED` on `n` pixels: a draw for every label (41 R142). -/
def State.seedWrk (s : State) (n : Nat) : Memory WrkEntry :=
  loop n (fun i w => w.put i { s.wrkIn w i with l := s.draw i }) s.wrk

/-- `SEED` (41 R142). -/
def execSeed (s : State) : Answer :=
  s.forImage fun n => ({ s with wrk := s.seedWrk n, iter := ⟨0, false⟩ }.dropDraws n).goto PhaseCode.clrcent

/-- `CLRCENT` (41 R143). -/
def execClrcent (s : State) : Answer :=
  .next ({ s with cent := Vector.replicate 16 Rgb.black }.goto PhaseCode.clracc)

/-- `CLRACC` (41 R144). -/
def execClracc (s : State) : Answer :=
  .next ({ s with acc := Vector.replicate 16 Acc.zero }.goto PhaseCode.accum)

/-- One pixel added to an accumulator (41 R145): 32-bit sums of zero-extended channels. DEDUCED, log 17. -/
def Acc.addPixel (a : Acc) (p : Rgb) : Acc :=
  ⟨a.sr + p.r.zeroExtend 32, a.sg + p.g.zeroExtend 32, a.sb + p.b.zeroExtend 32, a.cnt + 1⟩

/-- `ACCUM` on `n` pixels (41 R145). -/
def State.accumAcc (s : State) (n : Nat) : Vector Acc 16 :=
  loop n (fun i acc =>
    let e := s.wrkRead i
    fileSet acc e.l (Acc.addPixel (fileGet acc e.l) e.rgb)) s.acc

/-- `ACCUM` (41 R145). -/
def execAccum (s : State) : Answer :=
  s.forImage fun n => { s with acc := s.accumAcc n }.goto PhaseCode.mean

/-- `mean8(s, c)`: the floor of the quotient, for `c > 0` and `s <= 255 * c` (41 R148); a free value elsewhere.
DESIGN CHOICE, log 10. -/
def mean8 (s c : BitVec 32) : Byte :=
  if c ≠ 0 ∧ s.toNat ≤ 255 * c.toNat then BitVec.ofNat 8 (s.toNat / c.toNat) else Config.meanOutOfDomain s c

/-- The centroid after `MEAN`: the mean of a cluster with members, else the centroid as it was (41 R149). -/
def meanEntry (a : Acc) (old : Rgb) : Rgb :=
  if a.cnt = 0 then old else ⟨mean8 a.sr a.cnt, mean8 a.sg a.cnt, mean8 a.sb a.cnt⟩

/-- `MEAN` (41 R149). -/
def execMean (s : State) : Answer :=
  .next ({ s with cent := Vector.ofFn fun k : Fin 16 => meanEntry s.acc[k] s.cent[k] }.goto PhaseCode.assign)

/-- The square of the difference of two channels, taken over the integers (41 R150). -/
def sqDiff (x y : Byte) : Nat := (((x.toNat : Int) - (y.toNat : Int)) ^ 2).toNat

/-- `dist2(p, c)` (41 R150). -/
def dist2 (p c : Rgb) : Nat := sqDiff p.r c.r + sqDiff p.g c.g + sqDiff p.b c.b

/-- The comparator's scan (41 R151): `BEST` and `BESTD` after all sixteen centroids. -/
def nearestScan (p : Rgb) (C : Vector Rgb 16) : Label × BitVec 18 :=
  loop 15 (fun j (m : Label × BitVec 18) =>
    let k : Label := BitVec.ofNat 4 (j + 1)
    let t : BitVec 18 := BitVec.ofNat 18 (dist2 p (fileGet C k))
    if t < m.2 then (k, t) else m) (0, BitVec.ofNat 18 (dist2 p (fileGet C 0)))

/-- `nearest(p, C)` (41 R151). -/
def nearest (p : Rgb) (C : Vector Rgb 16) : Label := (nearestScan p C).1

/-- What the loop of `ASSIGN` changes. -/
structure AssignLoop where
  wrk     : Memory WrkEntry
  changed : Bool
  best    : Label
  bestd   : BitVec 18
  deriving DecidableEq, Repr

/-- `ASSIGN` on pixel `i` (41 R152). -/
def State.assignPixel (s : State) (i : Nat) (a : AssignLoop) : AssignLoop :=
  let e := s.wrkIn a.wrk i
  let m := nearestScan e.rgb s.cent
  { wrk := if m.1 = e.l then a.wrk else a.wrk.put i { e with l := m.1 }
    changed := a.changed || m.1 != e.l
    best := m.1
    bestd := m.2 }

/-- `ASSIGN` on `n` pixels (41 R152): `CHANGED <- 0`, then every pixel. DEDUCED, log 22 for `BEST` and `BESTD`. -/
def State.assignAll (s : State) (n : Nat) : AssignLoop :=
  loop n s.assignPixel ⟨s.wrk, false, s.best, s.bestd⟩

/-- `ASSIGN` (41 R152). -/
def execAssign (s : State) : Answer :=
  s.forImage fun n =>
    let a := s.assignAll n
    { s with wrk := a.wrk, changed := a.changed, best := a.best, bestd := a.bestd }.goto PhaseCode.roundend

/-- `ROUNDEND` (41 R154): the tests read the incremented count. DEDUCED, log 17. -/
def execRoundend (s : State) : Answer :=
  let r := s.iter.rounds + 1
  if s.changed = false then
    .next ({ s with iter := ⟨r, true⟩ }.goto PhaseCode.palout)
  else if r = Config.maxRounds then
    .next ({ s with iter := { s.iter with rounds := r } }.goto PhaseCode.palout)
  else
    .next ({ s with iter := { s.iter with rounds := r } }.goto PhaseCode.clracc)

end Sys2Proof.Machine
end

