-- ==== Sys2Proof/Machine/PalettePack.lean ====
section
/-! DEFINITION. Palette output and the nibble packer: PALOUT, PACK (42 R170, R171). -/

namespace Sys2Proof.Machine

/-- The palette written from the centroid file (42 R170). -/
def State.paloutPal (s : State) : Memory Byte :=
  loop 16 (fun k c => putPalEntry c (BitVec.ofNat 4 k) (fileGet s.cent (BitVec.ofNat 4 k))) s.pal

/-- `PALOUT` (42 R170). -/
def execPalout (s : State) : Answer := .next ({ s with pal := s.paloutPal }.goto PhaseCode.pack)

/-- The packed image of `n` labels: even pixel high, odd pixel low (42 R171). -/
def State.packImg (s : State) (n : Nat) : Memory Byte :=
  loop (n / 2) (fun j c => c.put j (packByte (s.wrkRead (2 * j)).l (s.wrkRead (2 * j + 1)).l)) s.img

/-- `PACK` (42 R171). -/
def execPack (s : State) : Answer := s.forImage fun n => { s with img := s.packImg n }.goto PhaseCode.luma

end Sys2Proof.Machine
end

