-- ==== Sys2Proof/Machine/Render.lean ====
section
/-! DEFINITION. The renderer's phase: EXPAND (44 R206). -/

namespace Sys2Proof.Machine

/-- The RGBA image of `n` pixels: each index looked up in the palette, alpha 255 (44 R206). -/
def State.expandDst (s : State) (n : Nat) : Memory Byte :=
  loop n (fun i c => putPixel c i (s.palEntry (getnib (s.memRead .img) i)) Config.opaqueAlpha) s.dst

/-- `EXPAND` (44 R206). -/
def execExpand (s : State) : Answer := s.forImage fun n => { s with dst := s.expandDst n }.goto PhaseCode.finish

end Sys2Proof.Machine
end

