-- ==== Sys2Proof/Machine/Dispatch.lean ====
section
/-! DEFINITION. One arm for each instruction. -/

namespace Sys2Proof.Machine

def exec (i : Instr) (s : State) : Host.Outcome State Fault Refusal :=
  match i with
  | .nop => Sys2Proof.Machine.execNop s
  | .quantize => Sys2Proof.Machine.execQuantize s
  | .render => Sys2Proof.Machine.execRender s
  | .idle => Sys2Proof.Machine.execIdle s
  | .argchk => Sys2Proof.Machine.execArgchk s
  | .copy => Sys2Proof.Machine.execCopy s
  | .seed => Sys2Proof.Machine.execSeed s
  | .clrcent => Sys2Proof.Machine.execClrcent s
  | .clracc => Sys2Proof.Machine.execClracc s
  | .accum => Sys2Proof.Machine.execAccum s
  | .mean => Sys2Proof.Machine.execMean s
  | .assign => Sys2Proof.Machine.execAssign s
  | .roundend => Sys2Proof.Machine.execRoundend s
  | .palout => Sys2Proof.Machine.execPalout s
  | .pack => Sys2Proof.Machine.execPack s
  | .luma => Sys2Proof.Machine.execLuma s
  | .darkest => Sys2Proof.Machine.execDarkest s
  | .blackswap => Sys2Proof.Machine.execBlackswap s
  | .lutgen => Sys2Proof.Machine.execLutgen s
  | .relabel => Sys2Proof.Machine.execRelabel s
  | .expand => Sys2Proof.Machine.execExpand s
  | .finish => Sys2Proof.Machine.execFinish s

end Sys2Proof.Machine
end

