-- ==== Sys2Proof/Machine/HostPort.lean ====
section
/-! DEFINITION. What happens next: the host's transactions (20 R63 to R65; 10 R21 to R27), the fetch of a written
command (40 R120) and the fetch of the phase `PH` names (40 R124). -/

namespace Sys2Proof.Machine

/-- What the next step is. -/
inductive Fetch where
  /-- Run an instruction in a state. -/
  | run (i : Instr) (s : State)
  /-- The step ran no instruction and left this state. -/
  | settled (s : State)
  /-- The step cannot be taken. -/
  | stuck (f : Fault)

/-- The engine's turn: the phase `PH` names (10 R30; 40 R124). -/
def fetchPhase (s : State) : Fetch :=
  match decodeUop s.ph with
  | .ok i => .run i s
  | .error _ => .stuck .reservedPhase

/-- The registers of the block and its reserved words (10 R21). -/
inductive RegName where
  | cmd | status | numpix | iter | dark | reserved
  deriving DecidableEq, Repr

/-- The register at an aligned offset of the block (10 R21). -/
def regAt (off : Nat) : RegName :=
  if off = 0x00 then .cmd
  else if off = 0x04 then .status
  else if off = 0x08 then .numpix
  else if off = 0x0C then .iter
  else if off = 0x10 then .dark
  else .reserved

/-- `HostRegRead`: the 32 bits of a register (10 R21 to R27). -/
def State.regWord (s : State) : RegName → Reg32
  | .cmd => 0
  | .status => s.statusWord
  | .numpix => s.numpix
  | .iter => s.iterWord
  | .dark => s.darkWord
  | .reserved => 0

/-- The byte offset is inside the register block (10 R27). -/
def inBlock (off : Nat) : Bool := decide (off < 0x20)

/-- A register read (20 R63). It changes nothing of the CQE. -/
def hostRegRead (width : Width) (off : Nat) (s : State) : State :=
  if inBlock off = false then s.reply .notSelected
  else if regAccessOk width off = false then s.reply .refused
  else s.reply (.word (s.regWord (regAt off)))

/-- A word written to `CMD` (40 R120): a command runs its meaning, an illegal word is rejected at acceptance
(30 R101; 60 R218). What `BUSY = 1` does to either is in `State.accept` (DEDUCED, log 18). -/
def fetchCommand (w : Reg32) (s : State) : Fetch :=
  match decodeCmd w with
  | .ok i => .run i s
  | .error _ => .settled (s.accept State.raiseIllegalCommand)

/-- A write of `NUMPIX`: any value, ignored while `BUSY = 1` (10 R24). -/
def State.writeNumpix (s : State) (w : Reg32) : State :=
  if s.status.busy then s else { s with numpix := w }

/-- A register write (20 R63; 10 R21, R22, R24). -/
def hostRegWrite (width : Width) (off : Nat) (w : Reg32) (s : State) : Fetch :=
  if inBlock off = false then .settled (s.reply .notSelected)
  else if regAccessOk width off = false then .settled (s.reply .refused)
  else
    match regAt off with
    | .cmd => fetchCommand w (s.reply .written)
    | .numpix => .settled ((s.reply .written).writeNumpix w)
    | .status => .settled (s.reply .written)
    | .iter => .settled (s.reply .written)
    | .dark => .settled (s.reply .written)
    | .reserved => .settled (s.reply .written)

/-- A memory read (20 R64); while `BUSY = 1` it returns a fresh free byte (20 R65; DESIGN CHOICE, log 9). -/
def hostMemRead (m : MemName) (width : Width) (a : Nat) (s : State) : State :=
  if memAccessOk m width a = false then s.reply .refused
  else if s.status.busy then { s with fresh := s.fresh + 1 }.reply (.byte (Config.freeByte s.fresh))
  else s.reply (.byte (s.memRead m a))

/-- A memory write (20 R64); while `BUSY = 1` it is ignored (20 R65). -/
def hostMemWrite (m : MemName) (width : Width) (a : Nat) (v : Byte) (s : State) : State :=
  if memAccessOk m width a = false then s.reply .refused
  else if s.status.busy then s.reply .written
  else (s.memWrite m a v).reply .written

/-- A transaction of the host. -/
def hostTxn (t : Txn) (s : State) : Fetch :=
  match t with
  | .regRead width off => .settled (hostRegRead width off s)
  | .regWrite width off w => hostRegWrite width off w s
  | .memRead m width a => .settled (hostMemRead m width a s)
  | .memWrite m width a v => .settled (hostMemWrite m width a v s)
  | .wrkAccess => .settled (s.reply .refused)
  | .resetInput => .settled s.takeReset

/-- One poll of `WAIT` (30 R105): read `STATUS`; with `BUSY = 1` let the engine move and poll again. DESIGN CHOICE, log 6. -/
def pollStatus (rest : List HostEvent) (s : State) : State :=
  { s.reply (.word s.statusWord) with
    script := if s.status.busy then .engine :: .wait :: rest else rest }

/-- The next step (00 R8): the host's next event, or the engine when the host has none left. DESIGN CHOICE, log 5. -/
def fetchNext (s : State) : Fetch :=
  match s.script with
  | [] => fetchPhase s
  | .engine :: rest => fetchPhase { s with script := rest }
  | .wait :: rest => .settled (pollStatus rest { s with script := rest })
  | .txn t :: rest => hostTxn t { s with script := rest }

end Sys2Proof.Machine
end

