-- ==== Sys2Proof/Machine/Step.lean ====
section
/-! DEFINITION. The step, and how an instruction is placed where the next step fetches it. -/

namespace Sys2Proof.Machine

/-- One step of the machine: what `fetchNext` finds, run by `exec` (00 R8; 40 R120, R124). -/
def step (s : State) : Host.Outcome State Fault Refusal :=
  match fetchNext s with
  | .run i t => exec i t
  | .settled t => .next t
  | .stuck f => .fault f

/-- `s` with an instruction where the very next step runs it. A command word (`nbits > 8`) is the host's next write
to `CMD`, with the engine idle as acceptance takes (40 R120); a phase code is put in `PH`, with the engine busy as
40 R124 takes (idle for `IDLE`, 10 R30) and the engine's turn next. DESIGN CHOICE, log 14. -/
def State.withFetchWord (s : State) (nbits w : Nat) : State :=
  if nbits ≤ 8 then
    { s with
      ph := BitVec.ofNat 5 w
      status := { s.status with busy := BitVec.ofNat 5 w != PhaseCode.idle }
      script := .engine :: s.script }
  else
    { s with
      ph := PhaseCode.idle
      status := { s.status with busy := false }
      script := .txn (.regWrite .w32 0x00 (BitVec.ofNat 32 w)) :: s.script }

end Sys2Proof.Machine
end

