-- ==== Sys2Proof/Safety.lean ====
section
/-! DEFINITION. The terms claims use: the engine's invariant (10 R48), the phase graph (40 R125), what "least index of
the least value" means, and the quantizer as a function (41 R156), written apart from the machine. -/

namespace Sys2Proof.Machine

/-! ## Legal images and illegal words -/

/-- `NUMPIX` legal for a command: even, at least 2, at most `MAXPIX` (10 R24; 40 R123). -/
def LegalNumpix (n : Nat) : Prop := 2 ≤ n ∧ n ≤ Config.maxPix ∧ n % 2 = 0

/-- An illegal command word, by its fields (30 R92, R101): `w[31:8] != 0` or `w[7:0] > 0x02`. -/
def IllegalWord (w : Reg32) : Prop := w.extractLsb' 8 24 ≠ 0 ∨ 2 < (w.extractLsb' 0 8).toNat

/-! ## The invariant -/

/-- The pairs of error code and sub-cause that ever appear with `ERR = 1` (60 R216). -/
def errorCodes : List (BitVec 4 × BitVec 4) := [(1, 1), (1, 2), (1, 3), (2, 0)]

/-- `PAL[0] = PAL[1] = PAL[2] = 0` (43 R191). -/
def State.SlotZeroBlack (s : State) : Prop :=
  s.memRead .pal 0 = 0 ∧ s.memRead .pal 1 = 0 ∧ s.memRead .pal 2 = 0

/-- What holds in every reachable state (10 R28, R30, R48), with what makes it inductive: which phases belong to
which command (30 R100) and where the loop's counter stands. -/
structure Inv (s : State) : Prop where
  /-- At most one of `BUSY`, `DONE`, `ERR` is 1 (10 R48 (a)). -/
  oneFlag : (s.status.busy && s.status.done) = false ∧ (s.status.busy && s.status.err) = false ∧
    (s.status.done && s.status.err) = false
  /-- `PH = IDLE` exactly when `BUSY = 0` (10 R48 (b)). -/
  idle : s.ph = PhaseCode.idle ↔ s.status.busy = false
  /-- `PH` never holds a code above 0x12 (10 R30). -/
  phase : s.ph.toNat ≤ 18
  /-- Without `ERR` no code (10 R48 (c)). -/
  noError : s.status.err = false → s.status.errCode = 0 ∧ s.status.errInfo = 0
  /-- With `ERR` one of the codes of 60 R216. -/
  error : s.status.err = true → (s.status.errCode, s.status.errInfo) ∈ errorCodes
  /-- `ROUNDS <= 24` (10 R48 (d)). -/
  rounds : s.iter.rounds.toNat ≤ 24
  /-- Before the cap is reached the loop has run fewer rounds (41 R154). -/
  loopRounds : 4 ≤ s.ph.toNat → s.ph.toNat ≤ 9 → s.iter.rounds.toNat ≤ 23
  /-- After the loop at least one round has run (41 R154; 10 R48 (f)). -/
  someRound : (10 ≤ s.ph.toNat ∧ s.ph.toNat ≤ 16) ∨ (s.ph = PhaseCode.finish ∧ s.op = 1) →
    1 ≤ s.iter.rounds.toNat
  /-- While `BUSY = 1`, `NUMPIX` is legal except during `ARGCHK` (10 R48 (e)). -/
  numpix : s.status.busy = true → s.ph ≠ PhaseCode.argchk → LegalNumpix s.numpix.toNat
  /-- While `BUSY = 1`, `OP` is 1 or 2 (10 R31). -/
  op : s.status.busy = true → s.op = 1 ∨ s.op = 2
  /-- The phases of `QUANTIZE` run for `QUANTIZE` (30 R100). -/
  quantizePhases : 2 ≤ s.ph.toNat → s.ph.toNat ≤ 16 → s.op = 1
  /-- `EXPAND` runs for `RENDER` (30 R100). -/
  renderPhase : s.ph = PhaseCode.expand → s.op = 2
  /-- From `BLACKSWAP` to the end of `QUANTIZE` slot 0 is black (43 R191; 10 R48 (f)). -/
  black : s.ph = PhaseCode.lutgen ∨ s.ph = PhaseCode.relabel ∨ (s.ph = PhaseCode.finish ∧ s.op = 1) →
    s.SlotZeroBlack
  /-- The memories keep their canonical form and their sizes (20 R60, R68). -/
  src : s.src.Ok (memSize .src)
  wrk : s.wrk.Ok Config.maxPix
  img : s.img.Ok (memSize .img)
  pal : s.pal.Ok (memSize .pal)
  dst : s.dst.Ok (memSize .dst)

/-! ## The phase graph -/

/-- The phase after phase `i` of state `s` (40 R125). A command word is no phase; it keeps the code here. -/
def nextPhase (s : State) : Instr → PhCode
  | .idle => PhaseCode.idle
  | .argchk =>
    if s.numpix.toNat = 0 ∨ s.numpix.toNat % 2 = 1 ∨ Config.maxPix < s.numpix.toNat then PhaseCode.idle
    else if s.op = 1 then PhaseCode.copy
    else PhaseCode.expand
  | .copy => PhaseCode.seed
  | .seed => PhaseCode.clrcent
  | .clrcent => PhaseCode.clracc
  | .clracc => PhaseCode.accum
  | .accum => PhaseCode.mean
  | .mean => PhaseCode.assign
  | .assign => PhaseCode.roundend
  | .roundend => if s.changed = true ∧ s.iter.rounds + 1 ≠ 24 then PhaseCode.clracc else PhaseCode.palout
  | .palout => PhaseCode.pack
  | .pack => PhaseCode.luma
  | .luma => PhaseCode.darkest
  | .darkest => PhaseCode.blackswap
  | .blackswap => PhaseCode.lutgen
  | .lutgen => PhaseCode.relabel
  | .relabel => PhaseCode.finish
  | .expand => PhaseCode.finish
  | .finish => PhaseCode.idle
  | .nop => s.ph
  | .quantize => s.ph
  | .render => s.ph

/-! ## Least index of the least value -/

/-- `k` is the least index at which `f` is least (41 R151; 43 R188). -/
def IsLeastArg (f : Label → Nat) (k : Label) : Prop :=
  (∀ j, f k ≤ f j) ∧ ∀ j : Label, j.toNat < k.toNat → f k < f j

/-! ## Clusters -/

/-- The pixels below `n` with label `k` (41 R146). -/
def members (n : Nat) (lab : Nat → Label) (k : Label) : List Nat := (List.range n).filter fun i => lab i = k

/-- The sum of a channel over the pixels with label `k` (41 R146). -/
def clusterSum (n : Nat) (lab : Nat → Label) (ch : Nat → Byte) (k : Label) : Nat :=
  ((members n lab k).map fun i => (ch i).toNat).sum

/-! ## The quantizer as a function (41 R156) -/

/-- A labelling of the pixels and a centroid for each cluster. -/
structure Clustering where
  lab  : Nat → Label
  cent : Label → Rgb

/-- The mean of a channel over cluster `k`, floored (41 R148). -/
def meanOf (n : Nat) (lab : Nat → Label) (ch : Nat → Byte) (k : Label) : Byte :=
  BitVec.ofNat 8 (clusterSum n lab ch k / (members n lab k).length)

/-- The centroids of a round: the mean of each cluster with members, the old centroid of each empty one. -/
def roundCent (n : Nat) (px : Nat → Rgb) (x : Clustering) (k : Label) : Rgb :=
  if members n x.lab k = [] then x.cent k
  else ⟨meanOf n x.lab (fun i => (px i).r) k, meanOf n x.lab (fun i => (px i).g) k,
    meanOf n x.lab (fun i => (px i).b) k⟩

/-- `y` is the result of one round on `x`: the means, then every pixel to the nearest of them, lowest index on ties. -/
def IsRound (n : Nat) (px : Nat → Rgb) (x y : Clustering) : Prop :=
  (∀ k, y.cent k = roundCent n px x k) ∧
  ∀ i, i < n → IsLeastArg (fun k => dist2 (px i) (y.cent k)) (y.lab i)

/-- Some pixel's label differs (41 R153). -/
def LabelsChanged (n : Nat) (x y : Clustering) : Prop := ∃ i, i < n ∧ y.lab i ≠ x.lab i

/-- `x 0, ..., x r` are the clusterings of the `r` rounds that k-means runs on the pixels `px` from the labels
`draw`: it starts from black centroids, each round follows from the last, and it stops after the first round that
changes no label, or after 24 (41 R156). -/
structure IsKmeansRun (n : Nat) (px : Nat → Rgb) (draw : Nat → Label) (r : Nat) (x : Nat → Clustering) : Prop where
  labels : ∀ i, i < n → (x 0).lab i = draw i
  black : ∀ k, (x 0).cent k = Rgb.black
  round : ∀ q, q < r → IsRound n px (x q) (x (q + 1))
  goes : ∀ q, q + 1 < r → LabelsChanged n (x q) (x (q + 1))
  stops : 1 ≤ r ∧ r ≤ 24 ∧ (r = 24 ∨ ¬ LabelsChanged n (x (r - 1)) (x r))

/-- The final palette from the centroids and the darkest index: entry `d` black, then exchanged with entry 0
(43 R190). -/
def finalPalette (cent : Label → Rgb) (d k : Label) : Rgb :=
  if k = 0 then Rgb.black else if k = d then cent 0 else cent k

/-- The state of a clustering that the machine holds. -/
def State.clustering (s : State) : Clustering := ⟨fun i => (s.wrkRead i).l, fileGet s.cent⟩

/-- The colours in the working store. -/
def State.px (s : State) (i : Nat) : Rgb := (s.wrkRead i).rgb

/-- The labels in the working store. -/
def State.lab (s : State) (i : Nat) : Label := (s.wrkRead i).l

end Sys2Proof.Machine
end

