-- ==== Sys2Proof/Certificates/Slice0/Obligations.lean ====
section
/-! DEFINITION. The statements for the provers, each from a numbered rule of spec/. -/

open Sys2Proof Sys2Proof.Machine

/-! ## Encoding -/

/-- 30 R93, R100, R101: some words written out from the tables. A sanity statement. -/
def Obligations.SpecWordsDecode : Prop :=
  decode (.cmd 0x00000000#32) = .ok .nop ∧ decode (.cmd 0x00000001#32) = .ok .quantize ∧
  decode (.cmd 0x00000002#32) = .ok .render ∧ decode (.cmd 0x00000003#32) = .error .illegalCommand ∧
  decode (.cmd 0x80000001#32) = .error .illegalCommand ∧ decode (.uop 0b00000#5) = .ok .idle ∧
  decode (.uop 0b01001#5) = .ok .roundend ∧ decode (.uop 0b01110#5) = .ok .blackswap ∧
  decode (.uop 0b10001#5) = .ok .expand ∧ decode (.uop 0b10011#5) = .error .reservedPhase

/-- 30 R93, R100: each word of either format has at most one meaning, and exactly the encodings have one. -/
def Obligations.DecodeIsInverseOfEncode : Prop :=
  ∀ (c : CodeWord) (i : Instr), decode c = .ok i ↔ encode i = c

/-- 30 R91: decode is total on command words, and a word is illegal exactly when its fields say so (30 R92, R101). -/
def Obligations.EveryCommandWordDecodesOrIsIllegal : Prop :=
  ∀ w : BitVec 32,
    (decodeCmd w = .ok .nop ∧ w = 0) ∨ (decodeCmd w = .ok .quantize ∧ w = 1) ∨
    (decodeCmd w = .ok .render ∧ w = 2) ∨ (decodeCmd w = .error .illegalCommand ∧ IllegalWord w)

/-- 30 R100: `PH` codes up to 0x12 decode, codes above do not. -/
def Obligations.ReservedPhaseCodesDoNotDecode : Prop :=
  ∀ c : PhCode, (decodeUop c = .error .reservedPhase ↔ 0x12 < c.toNat) ∧
    (c.toNat ≤ 0x12 ↔ ∃ i, decodeUop c = .ok i ∧ i.format = .uop ∧ encode i = .uop c)

/-! ## A step runs the decoded instruction -/

/-- 40 R124: when the engine moves, the step is the phase `PH` names. It moves when no event is left or the next
event says so, which is the model's form of the interleaving (log 5). -/
def Obligations.EngineTurnRunsThePhaseOfPH : Prop :=
  ∀ (s : State) (i : Instr), decodeUop s.ph = .ok i →
    (s.script = [] → step s = exec i s) ∧
    ∀ rest, s.script = .engine :: rest → step s = exec i { s with script := rest }

/-- 40 R120: when the host writes a word to `CMD` that is a command, the step is that command, after the event is
taken and the reply given (the model's form of both, log 5, log 7). With `BUSY = 1` the word is not decoded (30 R91);
that the step is `exec` of it there too, which then changes nothing, is the model's form (log 18). -/
def Obligations.CommandWriteRunsTheCommand : Prop :=
  ∀ (s : State) (rest : List HostEvent) (w : Reg32) (i : Instr),
    s.script = .txn (.regWrite .w32 0x00 w) :: rest → decodeCmd w = .ok i →
    step s = exec i { s with script := rest, replies := .written :: s.replies }

/-! ## Commands -/

/-- 40 R120, the acceptance rule, for every word and every state: with `BUSY = 1` nothing; with `BUSY = 0` the flags
and codes are cleared, then an illegal word is rejected, 0 sets `DONE`, 1 and 2 start the command. (Event and reply
are in the model's form, log 5, log 7.) -/
def Obligations.CommandWriteFollowsTheAcceptanceRule : Prop :=
  ∀ (s u : State) (rest : List HostEvent) (w : Reg32),
    s.script = .txn (.regWrite .w32 0x00 w) :: rest →
    u = { s with script := rest, replies := .written :: s.replies } →
    (s.status.busy = true → step s = .next u) ∧
    (s.status.busy = false → IllegalWord w →
      step s = .next { u with status := ⟨false, false, true, 2, 0⟩, ph := PhaseCode.idle }) ∧
    (s.status.busy = false → w = 0 → step s = .next { u with status := ⟨false, true, false, 0, 0⟩ }) ∧
    (s.status.busy = false → w = 1 ∨ w = 2 →
      step s = .next { u with status := ⟨true, false, false, 0, 0⟩, op := w.extractLsb' 0 2,
                              ph := PhaseCode.argchk })

/-- 40 R121. -/
def Obligations.NopClearsTheResultAndSetsDone : Prop :=
  ∀ s : State, s.status.busy = false →
    exec .nop s = .next { s with status := ⟨false, true, false, 0, 0⟩ }

/-- 40 R120 for `QUANTIZE` and `RENDER`: `OP`, `BUSY`, `PH`, the cleared result, and nothing else. -/
def Obligations.QuantizeAndRenderStartTheSequencer : Prop :=
  ∀ s : State, s.status.busy = false →
    exec .quantize s =
      .next { s with status := ⟨true, false, false, 0, 0⟩, op := 1, ph := PhaseCode.argchk } ∧
    exec .render s =
      .next { s with status := ⟨true, false, false, 0, 0⟩, op := 2, ph := PhaseCode.argchk }

/-- A command met while `BUSY = 1` completes and changes nothing. 10 R22 and 40 R120 say it of the host's write; that
it holds of `exec` is where the model puts the check of `BUSY` (log 18). -/
def Obligations.CommandsAreIgnoredWhileBusy : Prop :=
  ∀ s : State, s.status.busy = true →
    exec .nop s = .next s ∧ exec .quantize s = .next s ∧ exec .render s = .next s

/-- 40 R120: the engine has no step of its own in `IDLE`; that the model's `IDLE` step leaves the state as it is,
is log 15. -/
def Obligations.IdleChangesNothing : Prop := ∀ s : State, exec .idle s = .next s

/-- 40 R123: the three tests in their order, then the branch on `OP`. An illegal `NUMPIX` changes `STATUS` and `PH`
only, a legal one `PH` only. -/
def Obligations.ArgchkTestsZeroOddTooLargeInOrder : Prop :=
  ∀ (s : State) (n : Nat), n = s.numpix.toNat →
    (n = 0 → exec .argchk s =
      .next { s with status := ⟨false, false, true, 1, 1⟩, ph := PhaseCode.idle }) ∧
    (n % 2 = 1 → exec .argchk s =
      .next { s with status := ⟨false, false, true, 1, 2⟩, ph := PhaseCode.idle }) ∧
    (n ≠ 0 → n % 2 = 0 → Config.maxPix < n → exec .argchk s =
      .next { s with status := ⟨false, false, true, 1, 3⟩, ph := PhaseCode.idle }) ∧
    (LegalNumpix n → s.op = 1 → exec .argchk s = .next { s with ph := PhaseCode.copy }) ∧
    (LegalNumpix n → s.op = 2 → exec .argchk s = .next { s with ph := PhaseCode.expand })

/-- 40 R123 for the values of `OP` that no run has: the pseudocode's else branch, as the model reads it (log 21). -/
def Obligations.ArgchkTakesTheElseBranchForAnyOtherOp : Prop :=
  ∀ s : State, LegalNumpix s.numpix.toNat → s.op ≠ 1 → s.op ≠ 2 →
    exec .argchk s = .next { s with ph := PhaseCode.expand }

/-- 60 R221: what `raise` does, for both exceptions. -/
def Obligations.ErrorEntryWritesStatusAndReturnsToIdle : Prop :=
  ∀ s : State,
    (∀ info, s.raiseInvalidArgument info =
      { s with status := ⟨false, false, true, 1, info⟩, ph := PhaseCode.idle }) ∧
    s.raiseIllegalCommand = { s with status := ⟨false, false, true, 2, 0⟩, ph := PhaseCode.idle }

/-- 40 R127. -/
def Obligations.FinishSetsDoneAndReturnsToIdle : Prop :=
  ∀ s : State, exec .finish s =
    .next { s with status := { s.status with busy := false, done := true }, ph := PhaseCode.idle }

/-- 60 R221, R219, 70 R261: a `QUANTIZE` or `RENDER` with an illegal `NUMPIX` ends after one engine step with `ERR`,
and changes nothing but `STATUS` and `OP`. -/
def Obligations.RejectedCommandWritesNoOutput : Prop :=
  ∀ s : State, s.status.busy = false → s.ph = PhaseCode.idle → s.script = [] →
    ¬ LegalNumpix s.numpix.toNat →
    ∀ i o, (i, o) ∈ [(Instr.quantize, (1 : BitVec 2)), (.render, 2)] →
      ∃ a info, exec i s = .next a ∧ (info = 1 ∨ info = 2 ∨ info = 3) ∧
        step a = .next { s with status := ⟨false, false, true, 1, info⟩, op := o }

/-! ## k-means phases -/

/-- 41 R141. -/
def Obligations.CopyCopiesColoursIntoWrk : Prop :=
  ∀ s : State, s.numpix.toNat ≤ Config.maxPix →
    ∃ t, exec .copy s = .next t ∧ t = { s with wrk := t.wrk, ph := PhaseCode.seed } ∧
      (∀ i, i < s.numpix.toNat → t.wrkRead i =
        ⟨⟨s.memRead .src (4 * i), s.memRead .src (4 * i + 1), s.memRead .src (4 * i + 2)⟩, (s.wrkRead i).l⟩) ∧
      ∀ i, s.numpix.toNat ≤ i → t.wrkRead i = s.wrkRead i

/-- 41 R142. Which answers `Draw(i)` is: those in `draws`, then free values (the model's form, log 8). -/
def Obligations.SeedLabelsPixelsWithDrawsAndClearsIter : Prop :=
  ∀ s : State, s.numpix.toNat ≤ Config.maxPix →
    ∃ t, exec .seed s = .next t ∧
      t = { s with wrk := t.wrk, iter := ⟨0, false⟩, ph := PhaseCode.clrcent,
                   draws := s.draws.drop s.numpix.toNat, fresh := s.fresh + s.numpix.toNat } ∧
      (∀ i, i < s.numpix.toNat → t.wrkRead i = { s.wrkRead i with l := s.draw i } ∧
        ∀ v, s.draws[i]? = some v → s.draw i = v) ∧
      ∀ i, s.numpix.toNat ≤ i → t.wrkRead i = s.wrkRead i

/-- 41 R143. -/
def Obligations.ClrcentMakesEveryCentroidBlack : Prop :=
  ∀ s : State, ∃ t, exec .clrcent s = .next t ∧ t = { s with cent := t.cent, ph := PhaseCode.clracc } ∧
    ∀ k, fileGet t.cent k = ⟨0, 0, 0⟩

/-- 41 R144. -/
def Obligations.ClraccClearsEveryAccumulator : Prop :=
  ∀ s : State, ∃ t, exec .clracc s = .next t ∧ t = { s with acc := t.acc, ph := PhaseCode.accum } ∧
    ∀ k, fileGet t.acc k = ⟨0, 0, 0, 0⟩

/-- 41 R145: from any contents of `ACC`, each field of `ACC[k]` grows by the sum or count over the pixels labelled
`k`. 41 R147 says that no field wraps; the sum modulo 2^32, where it would, is the model's (log 17). -/
def Obligations.AccumAddsEachPixelToItsCluster : Prop :=
  ∀ s : State, s.numpix.toNat ≤ Config.maxPix →
    ∃ t, exec .accum s = .next t ∧ t = { s with acc := t.acc, ph := PhaseCode.mean } ∧
      ∀ k, fileGet t.acc k =
        ⟨(fileGet s.acc k).sr + BitVec.ofNat 32 (clusterSum s.numpix.toNat s.lab (fun i => (s.px i).r) k),
         (fileGet s.acc k).sg + BitVec.ofNat 32 (clusterSum s.numpix.toNat s.lab (fun i => (s.px i).g) k),
         (fileGet s.acc k).sb + BitVec.ofNat 32 (clusterSum s.numpix.toNat s.lab (fun i => (s.px i).b) k),
         (fileGet s.acc k).cnt + BitVec.ofNat 32 (members s.numpix.toNat s.lab k).length⟩

/-- 41 R146, R147: after `CLRACC` and `ACCUM` the fields are the exact sums and counts, none has wrapped, and the
counts add up to the number of pixels. -/
def Obligations.AccumulatorsHoldExactSums : Prop :=
  ∀ s a : State, s.numpix.toNat ≤ Config.maxPix → exec .clracc s = .next a →
    ∃ t, exec .accum a = .next t ∧
      (∀ k, (fileGet t.acc k).cnt.toNat = (members s.numpix.toNat s.lab k).length ∧
        (fileGet t.acc k).sr.toNat = clusterSum s.numpix.toNat s.lab (fun i => (s.px i).r) k ∧
        (fileGet t.acc k).sg.toNat = clusterSum s.numpix.toNat s.lab (fun i => (s.px i).g) k ∧
        (fileGet t.acc k).sb.toNat = clusterSum s.numpix.toNat s.lab (fun i => (s.px i).b) k ∧
        (fileGet t.acc k).cnt.toNat ≤ s.numpix.toNat ∧
        (fileGet t.acc k).sr.toNat ≤ 255 * (fileGet t.acc k).cnt.toNat ∧
        (fileGet t.acc k).sg.toNat ≤ 255 * (fileGet t.acc k).cnt.toNat ∧
        (fileGet t.acc k).sb.toNat ≤ 255 * (fileGet t.acc k).cnt.toNat) ∧
      ((List.range 16).map fun k => (fileGet t.acc (BitVec.ofNat 4 k)).cnt.toNat).sum = s.numpix.toNat

/-- 41 R148, R149: the floor of the mean for a cluster with members, the old centroid for one without. -/
def Obligations.MeanFloorsAndKeepsEmptyClusters : Prop :=
  ∀ s : State, ∃ t, exec .mean s = .next t ∧ t = { s with cent := t.cent, ph := PhaseCode.assign } ∧
    ∀ k, ((fileGet s.acc k).cnt = 0 → fileGet t.cent k = fileGet s.cent k) ∧
      ((fileGet s.acc k).cnt ≠ 0 →
        ((fileGet s.acc k).sr.toNat ≤ 255 * (fileGet s.acc k).cnt.toNat →
          (fileGet t.cent k).r.toNat = (fileGet s.acc k).sr.toNat / (fileGet s.acc k).cnt.toNat) ∧
        ((fileGet s.acc k).sg.toNat ≤ 255 * (fileGet s.acc k).cnt.toNat →
          (fileGet t.cent k).g.toNat = (fileGet s.acc k).sg.toNat / (fileGet s.acc k).cnt.toNat) ∧
        ((fileGet s.acc k).sb.toNat ≤ 255 * (fileGet s.acc k).cnt.toNat →
          (fileGet t.cent k).b.toNat = (fileGet s.acc k).sb.toNat / (fileGet s.acc k).cnt.toNat))

/-- 41 R150. -/
def Obligations.DistIsTheSquaredEuclideanDistance : Prop :=
  ∀ p c : Rgb,
    (dist2 p c : Int) = ((p.r.toNat : Int) - c.r.toNat) ^ 2 + ((p.g.toNat : Int) - c.g.toNat) ^ 2 +
      ((p.b.toNat : Int) - c.b.toNat) ^ 2 ∧
    dist2 p c ≤ 195075 ∧ dist2 p c = dist2 c p ∧ (dist2 p c = 0 ↔ p = c)

/-- 41 R151: the comparator's scan finds the least index of least distance, and `BESTD` is that distance. -/
def Obligations.NearestIsTheLeastIndexOfLeastDistance : Prop :=
  ∀ (p : Rgb) (C : Vector Rgb 16), IsLeastArg (fun k => dist2 p (fileGet C k)) (nearest p C) ∧
    (nearestScan p C).2.toNat = dist2 p (fileGet C (nearest p C))

/-- 41 R152, R153. -/
def Obligations.AssignMovesPixelsToTheNearestCentroid : Prop :=
  ∀ s : State, s.numpix.toNat ≤ Config.maxPix →
    ∃ t, exec .assign s = .next t ∧
      t = { s with wrk := t.wrk, changed := t.changed, best := t.best, bestd := t.bestd,
                   ph := PhaseCode.roundend } ∧
      (∀ i, i < s.numpix.toNat → t.wrkRead i = { s.wrkRead i with l := nearest (s.wrkRead i).rgb s.cent }) ∧
      (∀ i, s.numpix.toNat ≤ i → t.wrkRead i = s.wrkRead i) ∧
      (t.changed = true ↔ ∃ i, i < s.numpix.toNat ∧ (t.wrkRead i).l ≠ (s.wrkRead i).l)

/-- 41 R154. -/
def Obligations.RoundendCountsAndLoopsOrLeaves : Prop :=
  ∀ s : State,
    (s.changed = false → exec .roundend s =
      .next { s with iter := ⟨s.iter.rounds + 1, true⟩, ph := PhaseCode.palout }) ∧
    (s.changed = true → s.iter.rounds + 1 = 24 → exec .roundend s =
      .next { s with iter := ⟨24, s.iter.conv⟩, ph := PhaseCode.palout }) ∧
    (s.changed = true → s.iter.rounds + 1 ≠ 24 → exec .roundend s =
      .next { s with iter := ⟨s.iter.rounds + 1, s.iter.conv⟩, ph := PhaseCode.clracc })

/-- 41 R156: the four phases of a round compute the round as a function. (The host does nothing meanwhile, log 5.) -/
def Obligations.FourPhasesComputeOneRound : Prop :=
  ∀ s : State, s.numpix.toNat ≤ Config.maxPix → s.ph = PhaseCode.clracc → s.script = [] →
    ∃ t, Host.Core.run Sys2Proof.core 4 s = .next t ∧ t.ph = PhaseCode.roundend ∧
      IsRound s.numpix.toNat s.px s.clustering t.clustering ∧
      (∀ i, t.px i = s.px i) ∧
      (t.changed = true ↔ LabelsChanged s.numpix.toNat s.clustering t.clustering)

/-! ## Palette and packing -/

/-- 42 R170. -/
def Obligations.PaloutWritesTheCentroidsToPal : Prop :=
  ∀ s : State, ∃ t, exec .palout s = .next t ∧ t = { s with pal := t.pal, ph := PhaseCode.pack } ∧
    (∀ k : Label, t.memRead .pal (3 * k.toNat) = (fileGet s.cent k).r ∧
      t.memRead .pal (3 * k.toNat + 1) = (fileGet s.cent k).g ∧
      t.memRead .pal (3 * k.toNat + 2) = (fileGet s.cent k).b) ∧
    ∀ a, 48 ≤ a → t.memRead .pal a = s.memRead .pal a

/-- 42 R171: whole bytes from labels, bytes from `n/2` up untouched. -/
def Obligations.PackWritesTwoLabelsPerByte : Prop :=
  ∀ s : State, s.numpix.toNat ≤ Config.maxPix →
    ∃ t, exec .pack s = .next t ∧ t = { s with img := t.img, ph := PhaseCode.luma } ∧
      (∀ j, j < s.numpix.toNat / 2 →
        t.memRead .img j = (s.wrkRead (2 * j)).l ++ (s.wrkRead (2 * j + 1)).l) ∧
      ∀ a, s.numpix.toNat / 2 ≤ a → t.memRead .img a = s.memRead .img a

/-- 42 R174: the laws of the two nibble primitives. -/
def Obligations.NibblePrimitivesReadBackWhatTheyPack : Prop :=
  ∀ (M M' : Nat → Byte) (i : Nat) (v : Label),
    (∀ a, M' a = if a = i / 2 then setnib (M a) i v else M a) →
    getnib M' i = v ∧ (∀ i', i' ≠ i → getnib M' i' = getnib M i') ∧
    ∀ (b : Byte) (j : Nat) (h l : Label),
      setnib (setnib b (2 * j) h) (2 * j + 1) l = h ++ l ∧
      setnib (setnib b (2 * j + 1) l) (2 * j) h = h ++ l

/-- 42 R175: after `PACK` the index of every pixel of an even image is its label. -/
def Obligations.PackedIndexIsTheLabel : Prop :=
  ∀ s t : State, s.numpix.toNat ≤ Config.maxPix → s.numpix.toNat % 2 = 0 → exec .pack s = .next t →
    ∀ i, i < s.numpix.toNat → getnib (t.memRead .img) i = (s.wrkRead i).l

/-! ## Darkest colour to slot 0 -/

/-- 43 R186, R187. -/
def Obligations.LumaMeasuresEveryPaletteEntry : Prop :=
  ∀ s : State, ∃ t, exec .luma s = .next t ∧ t = { s with lum := t.lum, ph := PhaseCode.darkest } ∧
    ∀ k : Label, (fileGet t.lum k).toNat = 299 * (s.memRead .pal (3 * k.toNat)).toNat +
        587 * (s.memRead .pal (3 * k.toNat + 1)).toNat + 114 * (s.memRead .pal (3 * k.toNat + 2)).toNat ∧
      (fileGet t.lum k).toNat ≤ 255000

/-- 43 R188, R189. -/
def Obligations.DarkestSelectsTheLeastIndexOfLeastLuminance : Prop :=
  ∀ s : State, ∃ t, exec .darkest s = .next t ∧ t = { s with dark := t.dark, ph := PhaseCode.blackswap } ∧
    IsLeastArg (fun k => (fileGet s.lum k).toNat) t.dark

/-- 43 R190, R191: the net effect, with `d = DARK.IDX`. -/
def Obligations.BlackswapMovesBlackToSlotZero : Prop :=
  ∀ s : State, ∃ t, exec .blackswap s = .next t ∧ t = { s with pal := t.pal, ph := PhaseCode.lutgen } ∧
    t.SlotZeroBlack ∧
    (s.dark ≠ 0 → ∀ c, c < 3 → t.memRead .pal (3 * s.dark.toNat + c) = s.memRead .pal c) ∧
    (∀ k : Label, k ≠ 0 → k ≠ s.dark → ∀ c, c < 3 →
      t.memRead .pal (3 * k.toNat + c) = s.memRead .pal (3 * k.toNat + c)) ∧
    ∀ a, 48 ≤ a → t.memRead .pal a = s.memRead .pal a

/-- 43 R192, R193: the exchange of two indices, on one nibble and on both nibbles of a byte. -/
def Obligations.SwapidxAndLutbyteExchangeTwoIndices : Prop :=
  ∀ d v : Label, swapidx d 0 = d ∧ swapidx d d = 0 ∧ (v ≠ 0 → v ≠ d → swapidx d v = v) ∧
    swapidx 0 v = v ∧ swapidx d (swapidx d v) = v ∧
    ∀ (h l : Label) (b : Byte), lutbyte d (h ++ l) = swapidx d h ++ swapidx d l ∧ lutbyte 0 b = b ∧
      lutbyte d (lutbyte d b) = b

/-- 43 R194. -/
def Obligations.LutgenBuildsTheRelabelTable : Prop :=
  ∀ s : State, ∃ t, exec .lutgen s = .next t ∧ t = { s with lut := t.lut, ph := PhaseCode.relabel } ∧
    ∀ b : Byte, t.lutAt b = lutbyte s.dark b

/-- 43 R195. -/
def Obligations.RelabelMapsEveryByteThroughTheTable : Prop :=
  ∀ s : State, s.numpix.toNat ≤ Config.maxPix →
    ∃ t, exec .relabel s = .next t ∧ t = { s with img := t.img, ph := PhaseCode.finish } ∧
      (∀ j, j < s.numpix.toNat / 2 → t.memRead .img j = s.lutAt (s.memRead .img j)) ∧
      ∀ a, s.numpix.toNat / 2 ≤ a → t.memRead .img a = s.memRead .img a

/-- 43 R196: `LUTGEN` and `RELABEL` exchange the indices 0 and `d` of every pixel. -/
def Obligations.RelabelExchangesIndicesOfEveryPixel : Prop :=
  ∀ s a : State, s.numpix.toNat ≤ Config.maxPix → s.numpix.toNat % 2 = 0 → exec .lutgen s = .next a →
    ∃ t, exec .relabel a = .next t ∧
      ∀ i, i < s.numpix.toNat → getnib (t.memRead .img) i = swapidx s.dark (getnib (s.memRead .img) i)

/-! ## Renderer -/

/-- 44 R206. -/
def Obligations.ExpandLooksUpEveryPixelWithAlpha255 : Prop :=
  ∀ s : State, s.numpix.toNat ≤ Config.maxPix →
    ∃ t, exec .expand s = .next t ∧ t = { s with dst := t.dst, ph := PhaseCode.finish } ∧
      (∀ i, i < s.numpix.toNat →
        (∀ c, c < 3 → t.memRead .dst (4 * i + c) =
          s.memRead .pal (3 * (getnib (s.memRead .img) i).toNat + c)) ∧
        t.memRead .dst (4 * i + 3) = 0xFF) ∧
      ∀ a, 4 * s.numpix.toNat ≤ a → t.memRead .dst a = s.memRead .dst a

/-! ## Whole-machine rules -/

/-- 40 R125, R123, 41 R154: every transfer of control of the sequencer. Where no run leads the model chooses: an `OP`
other than 1 and 2 goes from `ARGCHK` to `EXPAND` (log 21), a new `ROUNDS` that is not below 24 and is not 24 goes to
`CLRACC` (log 17). The step from `IDLE` to `IDLE` is log 15. -/
def Obligations.PhasesFollowThePhaseGraph : Prop :=
  ∀ (s t : State) (i : Instr), i.format = .uop → encode i = .uop s.ph → exec i s = .next t →
    t.ph = nextPhase s i

/-- 20 R60, the column "engine write": which instruction writes which memory; no instruction touches the model's own
fields but `SEED`, which takes draws. -/
def Obligations.EachMemoryIsWrittenOnlyByItsPhases : Prop :=
  ∀ (s t : State) (i : Instr), exec i s = .next t →
    t.src = s.src ∧ (i ∉ [Instr.copy, .seed, .assign] → t.wrk = s.wrk) ∧
    (i ∉ [Instr.pack, .relabel] → t.img = s.img) ∧ (i ∉ [Instr.palout, .blackswap] → t.pal = s.pal) ∧
    (i ≠ .expand → t.dst = s.dst) ∧ t.script = s.script ∧ t.replies = s.replies ∧ t.epoch = s.epoch ∧
    t.wrkEpoch = s.wrkEpoch ∧ (i ≠ .seed → t.draws = s.draws ∧ t.fresh = s.fresh)

/-- 10 R24, R25, R26, R29, R31 to R36, 40 R125: which instruction writes which register. -/
def Obligations.EachRegisterIsWrittenOnlyByItsInstructions : Prop :=
  ∀ (s t : State) (i : Instr), exec i s = .next t →
    t.numpix = s.numpix ∧ (i ∉ [Instr.seed, .roundend] → t.iter = s.iter) ∧
    (i ≠ .darkest → t.dark = s.dark) ∧ (i ≠ .assign → t.changed = s.changed) ∧
    (i ∉ [Instr.quantize, .render] → t.op = s.op) ∧ (i ∉ [Instr.clrcent, .mean] → t.cent = s.cent) ∧
    (i ∉ [Instr.clracc, .accum] → t.acc = s.acc) ∧ (i ≠ .luma → t.lum = s.lum) ∧
    (i ≠ .lutgen → t.lut = s.lut) ∧ (i ≠ .assign → t.best = s.best ∧ t.bestd = s.bestd) ∧
    (i ∈ [Instr.nop, .idle] → t.ph = s.ph) ∧
    (i ∉ [Instr.nop, .quantize, .render, .argchk, .finish] → t.status = s.status)

/-! ## Host transactions

The form of an event in `script`, what is taken from it and what is put in `replies` are the model's own in every
statement of this section (log 5, log 7). -/

/-- 10 R23, R25, R26, R27: a read of `STATUS`, `ITER` or `DARK` returns the fields at their bits and 0 elsewhere, at
any time, and changes nothing of the CQE. -/
def Obligations.StatusIterDarkReadsReturnTheirFields : Prop :=
  ∀ (s : State) (rest : List HostEvent),
    (s.script = .txn (.regRead .w32 0x04) :: rest →
      ∃ w : Reg32, step s = .next { s with script := rest, replies := .word w :: s.replies } ∧
        w.getLsbD 0 = s.status.busy ∧ w.getLsbD 1 = s.status.done ∧ w.getLsbD 2 = s.status.err ∧
        w.getLsbD 3 = false ∧ w.extractLsb' 4 4 = s.status.errCode ∧ w.extractLsb' 8 4 = s.status.errInfo ∧
        w.extractLsb' 12 5 = s.ph ∧ w.extractLsb' 17 15 = 0) ∧
    (s.script = .txn (.regRead .w32 0x0C) :: rest →
      ∃ w : Reg32, step s = .next { s with script := rest, replies := .word w :: s.replies } ∧
        w.extractLsb' 0 5 = s.iter.rounds ∧ w.extractLsb' 5 3 = 0 ∧ w.getLsbD 8 = s.iter.conv ∧
        w.extractLsb' 9 23 = 0) ∧
    (s.script = .txn (.regRead .w32 0x10) :: rest →
      ∃ w : Reg32, step s = .next { s with script := rest, replies := .word w :: s.replies } ∧
        w.extractLsb' 0 4 = s.dark ∧ w.extractLsb' 4 28 = 0)

/-- 10 R24: any value can be written to `NUMPIX` and is read back; a write while `BUSY = 1` is ignored. -/
def Obligations.NumpixIsWrittenOnlyWhileIdleAndReadsBack : Prop :=
  ∀ (s : State) (rest : List HostEvent) (w : Reg32),
    (s.script = .txn (.regWrite .w32 0x08 w) :: rest →
      (s.status.busy = false →
        step s = .next { s with script := rest, replies := .written :: s.replies, numpix := w }) ∧
      (s.status.busy = true → step s = .next { s with script := rest, replies := .written :: s.replies })) ∧
    (s.script = .txn (.regRead .w32 0x08) :: rest →
      step s = .next { s with script := rest, replies := .word s.numpix :: s.replies })

/-- 10 R21, R27: `CMD` and the reserved words read 0; writes to read-only registers and reserved words are ignored. -/
def Obligations.ReadOnlyAndReservedWordsIgnoreWrites : Prop :=
  ∀ (s : State) (rest : List HostEvent) (off : Nat),
    (off ∈ [0x00, 0x14, 0x18, 0x1C] → s.script = .txn (.regRead .w32 off) :: rest →
      step s = .next { s with script := rest, replies := .word 0 :: s.replies }) ∧
    (off ∈ [0x04, 0x0C, 0x10, 0x14, 0x18, 0x1C] → ∀ w, s.script = .txn (.regWrite .w32 off w) :: rest →
      step s = .next { s with script := rest, replies := .written :: s.replies })

/-- 20 R63, R64, 10 R27: a register access of a wrong width or alignment, one outside the block, a memory access of a
wrong width or out of range, and any access to `WRK` change nothing of the CQE. (Which reply the host gets is the
platform's; the labels are the model's, log 7.) -/
def Obligations.RefusedAccessesChangeNothing : Prop :=
  ∀ (s : State) (rest : List HostEvent) (x : Txn), s.script = .txn x :: rest →
    ((∃ width off, (width ≠ .w32 ∨ off % 4 ≠ 0 ∨ 32 ≤ off) ∧
        (x = .regRead width off ∨ ∃ w, x = .regWrite width off w)) ∨
      (∃ m width a, (width ≠ .w8 ∨ memSize m ≤ a) ∧
        (x = .memRead m width a ∨ ∃ v, x = .memWrite m width a v)) ∨
      x = .wrkAccess) →
    ∃ r, step s = .next { s with script := rest, replies := r :: s.replies }

/-- 20 R64, `BUSY = 0`: a byte write stores there and changes no other byte of any memory and no register. -/
def Obligations.HostByteWriteStoresThatByteOnly : Prop :=
  ∀ (s : State) (rest : List HostEvent) (m : MemName) (a : Nat) (v : Byte),
    s.script = .txn (.memWrite m .w8 a v) :: rest → s.status.busy = false → a < memSize m →
    ∃ t, step s = .next t ∧ t.memRead m a = v ∧
      (∀ m' b, (m', b) ≠ (m, a) → t.memRead m' b = s.memRead m' b) ∧
      t = { s with script := rest, replies := .written :: s.replies,
                   src := t.src, img := t.img, pal := t.pal, dst := t.dst }

/-- 20 R64, `BUSY = 0`: a byte read returns the byte stored there and changes nothing of the CQE. -/
def Obligations.HostByteReadReturnsTheStoredByte : Prop :=
  ∀ (s : State) (rest : List HostEvent) (m : MemName) (a : Nat),
    s.script = .txn (.memRead m .w8 a) :: rest → s.status.busy = false → a < memSize m →
    step s = .next { s with script := rest, replies := .byte (s.memRead m a) :: s.replies }

/-- 40 R126, 20 R65, R75, 10 R22, R24: while `BUSY = 1` no transaction of the host but reset changes any register or
any memory; an admitted byte read returns some byte. -/
def Obligations.HostCannotDisturbARunningCommand : Prop :=
  ∀ (s : State) (rest : List HostEvent) (x : Txn), s.script = .txn x :: rest → s.status.busy = true →
    x ≠ .resetInput →
    ∃ t, step s = .next t ∧ t = { s with script := rest, replies := t.replies, fresh := t.fresh } ∧
      ∀ m a, x = .memRead m .w8 a → a < memSize m → ∃ b, t.replies = .byte b :: s.replies

/-- 10 R28, 60 R222: once a command has ended, nothing but the next word written to `CMD`, or reset, changes
`STATUS`. -/
def Obligations.ResultFlagsStayUntilTheNextCommand : Prop :=
  ∀ s t : State, Inv s → s.status.busy = false → step s = .next t →
    (∀ w rest, s.script ≠ .txn (.regWrite .w32 0x00 w) :: rest) →
    (∀ rest, s.script ≠ .txn .resetInput :: rest) →
    t.status = s.status ∧ t.ph = s.ph

/-- 10 R28: all three flags are 0 only from reset until the first accepted command. In every state with a flag set,
whatever the next step is but reset, a flag is set after it. -/
def Obligations.SomeFlagStaysSetUntilReset : Prop :=
  ∀ s t : State, step s = .next t → (∀ rest, s.script ≠ .txn .resetInput :: rest) →
    (s.status.busy || s.status.done || s.status.err) = true →
    (t.status.busy || t.status.done || t.status.err) = true

/-- 30 R105, `WAIT`: one poll reads `STATUS`; with `BUSY = 0` it is over, with `BUSY = 1` the engine moves and the
next poll follows (how often the engine moves between two polls is the model's choice, log 6). -/
def Obligations.WaitPollsStatusUntilBusyIsZero : Prop :=
  ∀ (s : State) (rest : List HostEvent), s.script = .wait :: rest →
    (s.status.busy = false →
      step s = .next { s with script := rest, replies := .word s.statusWord :: s.replies }) ∧
    (s.status.busy = true →
      step s = .next { s with script := .engine :: .wait :: rest, replies := .word s.statusWord :: s.replies })

/-! ## Reset -/

/-- 10 R46: the values the spec gives. -/
def Obligations.ResetLeavesTheSpecifiedRegisterValues : Prop :=
  State.reset.status = ⟨false, false, false, 0, 0⟩ ∧ State.reset.statusWord = 0 ∧ State.reset.numpix = 0 ∧
  State.reset.iterWord = 0 ∧ State.reset.darkWord = 0 ∧ State.reset.ph = PhaseCode.idle

/-- 70 R245 to R247, the reset input as one event (log 13): after it the visible registers hold their reset values.
If a command was running,
`SRC` is unchanged, and so is every byte that the command was not entitled to write. -/
def Obligations.ResetInputReturnsToIdleAndKeepsOtherBytes : Prop :=
  ∀ (s : State) (rest : List HostEvent), s.script = .txn .resetInput :: rest →
    ∃ t, step s = .next t ∧ t.status = ⟨false, false, false, 0, 0⟩ ∧ t.numpix = 0 ∧ t.iter = ⟨0, false⟩ ∧
      t.dark = 0 ∧ t.ph = PhaseCode.idle ∧ t.script = rest ∧
      (s.status.busy = true →
        (∀ a, t.memRead .src a = s.memRead .src a) ∧
        (s.op = 1 → (∀ a, s.numpix.toNat / 2 ≤ a → t.memRead .img a = s.memRead .img a) ∧
          (∀ a, 48 ≤ a → t.memRead .pal a = s.memRead .pal a) ∧
          ∀ a, t.memRead .dst a = s.memRead .dst a) ∧
        (s.op = 2 → (∀ a, t.memRead .img a = s.memRead .img a) ∧
          (∀ a, t.memRead .pal a = s.memRead .pal a) ∧
          ∀ a, 4 * s.numpix.toNat ≤ a → t.memRead .dst a = s.memRead .dst a))

/-! ## Invariant and whole commands -/

/-- 10 R48: the invariant holds at reset. -/
def Obligations.ResetMeetsTheInvariant : Prop := Inv State.reset

/-- 10 R28, R30, R48, 20 R67, R68, 40 R124: from every state that meets the invariant, whatever the host does, the
step is taken, neither a fault nor a refusal, and the invariant holds after it. -/
def Obligations.EveryStepIsTakenAndKeepsTheInvariant : Prop :=
  ∀ s : State, Inv s → ∃ t, step s = .next t ∧ Inv t

/-- 40 R122, R128, 41 R155, R156, 43 R196, 70 R261: a legal `QUANTIZE`, from any state with `BUSY = 0`, any scratch,
any contents of the memories and any draws, runs `r` rounds of k-means, 1 to 24, and ends after `4 + 5r + 8` engine
steps with `DONE`; `BUSY` is 1 until then. (The host does nothing meanwhile, log 5; the draws are an input or free,
log 8.) `ITER`, `DARK`, the palette and the packed image are those of the
quantizer as a function; everything else the host can see is unchanged. -/
def Obligations.QuantizeComputesKmeansAndMovesDarkestToZero : Prop :=
  ∀ s : State, s.status.busy = false → s.script = [] → LegalNumpix s.numpix.toNat →
    ∃ (a t : State) (r : Nat) (x : Nat → Clustering),
      exec .quantize s = .next a ∧
      Host.Core.run Sys2Proof.core (4 + 5 * r + 8) a = .next t ∧
      (∀ j, j < 4 + 5 * r + 8 → ∃ u, Host.Core.run Sys2Proof.core j a = .next u ∧ u.status.busy = true) ∧
      IsKmeansRun s.numpix.toNat s.srcPixel s.draw r x ∧
      t.status = ⟨false, true, false, 0, 0⟩ ∧ t.ph = PhaseCode.idle ∧
      t.iter.rounds.toNat = r ∧ (t.iter.conv = true ↔ ¬ LabelsChanged s.numpix.toNat (x (r - 1)) (x r)) ∧
      IsLeastArg (fun k => luma1000 ((x r).cent k)) t.dark ∧
      (∀ k, t.palEntry k = finalPalette (x r).cent t.dark k) ∧
      (∀ i, i < s.numpix.toNat → getnib (t.memRead .img) i = swapidx t.dark ((x r).lab i)) ∧
      (∀ a, s.numpix.toNat / 2 ≤ a → t.memRead .img a = s.memRead .img a) ∧
      (∀ a, 48 ≤ a → t.memRead .pal a = s.memRead .pal a) ∧
      t.src = s.src ∧ t.dst = s.dst ∧ t.numpix = s.numpix

/-- 44 R205, R207, 70 R261: a legal `RENDER` ends after three engine steps with `DONE` and the image looked up; it
changes nothing else but `OP`. (The host does nothing meanwhile, log 5.) -/
def Obligations.RenderEndsAfterThreeStepsWithTheImage : Prop :=
  ∀ s : State, s.status.busy = false → s.ph = PhaseCode.idle → s.script = [] → LegalNumpix s.numpix.toNat →
    ∃ a t, exec .render s = .next a ∧ Host.Core.run Sys2Proof.core 3 a = .next t ∧
      t = { s with status := ⟨false, true, false, 0, 0⟩, op := 2, dst := t.dst } ∧
      (∀ i, i < s.numpix.toNat → ∃ k : Label, k = getnib (s.memRead .img) i ∧
        (∀ c, c < 3 → t.memRead .dst (4 * i + c) = s.memRead .pal (3 * k.toNat + c)) ∧
        t.memRead .dst (4 * i + 3) = 0xFF) ∧
      ∀ a, 4 * s.numpix.toNat ≤ a → t.memRead .dst a = s.memRead .dst a

/-- 10 R47: the result of a `QUANTIZE` is a function of `NUMPIX`, of `SRC` and of the draws. Two states that agree on
those and differ in anything else are busy for the same number of steps and end with the same `STATUS`, `ITER`, `DARK`,
palette and packed image. (The host does nothing meanwhile, log 5; the draws are an input or free, log 8.) -/
def Obligations.QuantizeLeaksNoEarlierScratch : Prop :=
  ∀ s s' : State, s.status.busy = false → s'.status.busy = false → s.script = [] → s'.script = [] →
    LegalNumpix s.numpix.toNat → s'.numpix = s.numpix →
    (∀ i c, i < s.numpix.toNat → c < 3 → s'.memRead .src (4 * i + c) = s.memRead .src (4 * i + c)) →
    (∀ i, i < s.numpix.toNat → s'.draw i = s.draw i) →
    ∃ (a a' t t' : State) (j : Nat), exec .quantize s = .next a ∧ exec .quantize s' = .next a' ∧
      Host.Core.run Sys2Proof.core j a = .next t ∧ Host.Core.run Sys2Proof.core j a' = .next t' ∧
      (∀ m, m < j → ∃ u u', Host.Core.run Sys2Proof.core m a = .next u ∧
        Host.Core.run Sys2Proof.core m a' = .next u' ∧ u.status.busy = true ∧ u'.status.busy = true) ∧
      t.status = ⟨false, true, false, 0, 0⟩ ∧ t'.status = t.status ∧ t'.iter = t.iter ∧ t'.dark = t.dark ∧
      (∀ a, a < 48 → t'.memRead .pal a = t.memRead .pal a) ∧
      ∀ j, j < s.numpix.toNat / 2 → t'.memRead .img j = t.memRead .img j
end

