-- ==== Sys2Proof/Laws/Decode.lean ====
section
/-! SUPPORT. What the decoder reads: the rows do not overlap, the three commands and the illegal words, the nineteen
phases and the reserved codes. -/

namespace Sys2Proof

/-- No word belongs to two commands. -/
theorem cmdTable_disjoint : cmdTable.Pairwise fun r q => r.pattern ≠ q.pattern ∧ r.mask = q.mask := by decide

/-- No code belongs to two phases. -/
theorem uopTable_disjoint : uopTable.Pairwise fun r q => r.pattern ≠ q.pattern ∧ r.mask = q.mask := by decide

theorem and_cmdMask (w : BitVec 32) : w &&& 0xFFFFFFFF#32 = w := by
  have : (0xFFFFFFFF#32 : BitVec 32) = BitVec.allOnes 32 := by decide
  rw [this, BitVec.and_allOnes]

/-- The decoder of command words, as the three words of 30 R93 and the rest. -/
theorem decodeCmd_eq (w : BitVec 32) :
    decodeCmd w =
      if w = 0 then .ok .nop else if w = 1 then .ok .quantize else if w = 2 then .ok .render
      else .error .illegalCommand := by
  unfold decodeCmd cmdTable
  by_cases a : w = 0
  · subst a; rfl
  · by_cases b : w = 1
    · subst b; rfl
    · by_cases c : w = 2
      · subst c; rfl
      · have h (p : BitVec 32) (i : Instr) (hp : w ≠ p) : rowMatches w ⟨p, 0xFFFFFFFF, i⟩ = false := by
          show (w &&& 0xFFFFFFFF#32 == p) = false
          rw [and_cmdMask]
          simpa using hp
        simp only [List.find?, h _ _ a, h _ _ b, h _ _ c, if_neg a, if_neg b, if_neg c]

/-- What a phase code says of the instruction: its encoding is the code. -/
theorem encode_of_decodeUop {c : PhCode} {i : Instr} (h : decodeUop c = .ok i) : encode i = .uop c := by
  have all : ∀ c : PhCode, ∀ i ∈ (decodeUop c).toOption, encode i = .uop c := by decide
  exact all c i (by rw [h]; rfl)

/-- The encoding of a phase decodes to it. -/
theorem decodeUop_of_encode {c : PhCode} {i : Instr} (h : encode i = .uop c) : decodeUop c = .ok i := by
  cases i <;> cases h <;> rfl

/-- A code up to 0x12 is a phase (30 R100). -/
theorem decodeUop_of_le {c : PhCode} (h : c.toNat ≤ 18) : ∃ i, decodeUop c = .ok i := by
  have all : ∀ c : PhCode, c.toNat ≤ 18 → (decodeUop c).toOption.isSome = true := by decide
  have hc := all c h
  cases hd : decodeUop c with
  | ok i => exact ⟨i, rfl⟩
  | error e =>
    rw [hd] at hc
    exact absurd hc (by simp [Except.toOption])

/-- A phase has a code up to 0x12 (30 R100). -/
theorem le_of_decodeUop {c : PhCode} {i : Instr} (h : decodeUop c = .ok i) : c.toNat ≤ 18 := by
  have all : ∀ c : PhCode, (decodeUop c).toOption.isSome = true → c.toNat ≤ 18 := by decide
  exact all c (by rw [h]; rfl)

end Sys2Proof
end

