-- ==== Sys2Proof/Laws/State.lean ====
section
/-! SUPPORT. One lemma for each field of `State` under each named update, so that no proof unfolds a record update. -/

namespace Sys2Proof.Machine

/-! `State.clearFlags` -/

@[simp] theorem State.clearFlags_status (s : State) : s.clearFlags.status = { s.status with done := false, err := false, errCode := 0, errInfo := 0 } := rfl
@[simp] theorem State.clearFlags_numpix (s : State) : s.clearFlags.numpix = s.numpix := rfl
@[simp] theorem State.clearFlags_iter (s : State) : s.clearFlags.iter = s.iter := rfl
@[simp] theorem State.clearFlags_dark (s : State) : s.clearFlags.dark = s.dark := rfl
@[simp] theorem State.clearFlags_ph (s : State) : s.clearFlags.ph = s.ph := rfl
@[simp] theorem State.clearFlags_op (s : State) : s.clearFlags.op = s.op := rfl
@[simp] theorem State.clearFlags_changed (s : State) : s.clearFlags.changed = s.changed := rfl
@[simp] theorem State.clearFlags_best (s : State) : s.clearFlags.best = s.best := rfl
@[simp] theorem State.clearFlags_bestd (s : State) : s.clearFlags.bestd = s.bestd := rfl
@[simp] theorem State.clearFlags_cent (s : State) : s.clearFlags.cent = s.cent := rfl
@[simp] theorem State.clearFlags_acc (s : State) : s.clearFlags.acc = s.acc := rfl
@[simp] theorem State.clearFlags_lum (s : State) : s.clearFlags.lum = s.lum := rfl
@[simp] theorem State.clearFlags_lut (s : State) : s.clearFlags.lut = s.lut := rfl
@[simp] theorem State.clearFlags_src (s : State) : s.clearFlags.src = s.src := rfl
@[simp] theorem State.clearFlags_wrk (s : State) : s.clearFlags.wrk = s.wrk := rfl
@[simp] theorem State.clearFlags_img (s : State) : s.clearFlags.img = s.img := rfl
@[simp] theorem State.clearFlags_pal (s : State) : s.clearFlags.pal = s.pal := rfl
@[simp] theorem State.clearFlags_dst (s : State) : s.clearFlags.dst = s.dst := rfl
@[simp] theorem State.clearFlags_script (s : State) : s.clearFlags.script = s.script := rfl
@[simp] theorem State.clearFlags_replies (s : State) : s.clearFlags.replies = s.replies := rfl
@[simp] theorem State.clearFlags_draws (s : State) : s.clearFlags.draws = s.draws := rfl
@[simp] theorem State.clearFlags_fresh (s : State) : s.clearFlags.fresh = s.fresh := rfl
@[simp] theorem State.clearFlags_epoch (s : State) : s.clearFlags.epoch = s.epoch := rfl
@[simp] theorem State.clearFlags_wrkEpoch (s : State) : s.clearFlags.wrkEpoch = s.wrkEpoch := rfl

/-! `State.setDone` -/

@[simp] theorem State.setDone_status (s : State) : s.setDone.status = { s.status with done := true } := rfl
@[simp] theorem State.setDone_numpix (s : State) : s.setDone.numpix = s.numpix := rfl
@[simp] theorem State.setDone_iter (s : State) : s.setDone.iter = s.iter := rfl
@[simp] theorem State.setDone_dark (s : State) : s.setDone.dark = s.dark := rfl
@[simp] theorem State.setDone_ph (s : State) : s.setDone.ph = s.ph := rfl
@[simp] theorem State.setDone_op (s : State) : s.setDone.op = s.op := rfl
@[simp] theorem State.setDone_changed (s : State) : s.setDone.changed = s.changed := rfl
@[simp] theorem State.setDone_best (s : State) : s.setDone.best = s.best := rfl
@[simp] theorem State.setDone_bestd (s : State) : s.setDone.bestd = s.bestd := rfl
@[simp] theorem State.setDone_cent (s : State) : s.setDone.cent = s.cent := rfl
@[simp] theorem State.setDone_acc (s : State) : s.setDone.acc = s.acc := rfl
@[simp] theorem State.setDone_lum (s : State) : s.setDone.lum = s.lum := rfl
@[simp] theorem State.setDone_lut (s : State) : s.setDone.lut = s.lut := rfl
@[simp] theorem State.setDone_src (s : State) : s.setDone.src = s.src := rfl
@[simp] theorem State.setDone_wrk (s : State) : s.setDone.wrk = s.wrk := rfl
@[simp] theorem State.setDone_img (s : State) : s.setDone.img = s.img := rfl
@[simp] theorem State.setDone_pal (s : State) : s.setDone.pal = s.pal := rfl
@[simp] theorem State.setDone_dst (s : State) : s.setDone.dst = s.dst := rfl
@[simp] theorem State.setDone_script (s : State) : s.setDone.script = s.script := rfl
@[simp] theorem State.setDone_replies (s : State) : s.setDone.replies = s.replies := rfl
@[simp] theorem State.setDone_draws (s : State) : s.setDone.draws = s.draws := rfl
@[simp] theorem State.setDone_fresh (s : State) : s.setDone.fresh = s.fresh := rfl
@[simp] theorem State.setDone_epoch (s : State) : s.setDone.epoch = s.epoch := rfl
@[simp] theorem State.setDone_wrkEpoch (s : State) : s.setDone.wrkEpoch = s.wrkEpoch := rfl

/-! `State.endBusy` -/

@[simp] theorem State.endBusy_status (s : State) : s.endBusy.status = { s.status with busy := false, done := true } := rfl
@[simp] theorem State.endBusy_numpix (s : State) : s.endBusy.numpix = s.numpix := rfl
@[simp] theorem State.endBusy_iter (s : State) : s.endBusy.iter = s.iter := rfl
@[simp] theorem State.endBusy_dark (s : State) : s.endBusy.dark = s.dark := rfl
@[simp] theorem State.endBusy_ph (s : State) : s.endBusy.ph = s.ph := rfl
@[simp] theorem State.endBusy_op (s : State) : s.endBusy.op = s.op := rfl
@[simp] theorem State.endBusy_changed (s : State) : s.endBusy.changed = s.changed := rfl
@[simp] theorem State.endBusy_best (s : State) : s.endBusy.best = s.best := rfl
@[simp] theorem State.endBusy_bestd (s : State) : s.endBusy.bestd = s.bestd := rfl
@[simp] theorem State.endBusy_cent (s : State) : s.endBusy.cent = s.cent := rfl
@[simp] theorem State.endBusy_acc (s : State) : s.endBusy.acc = s.acc := rfl
@[simp] theorem State.endBusy_lum (s : State) : s.endBusy.lum = s.lum := rfl
@[simp] theorem State.endBusy_lut (s : State) : s.endBusy.lut = s.lut := rfl
@[simp] theorem State.endBusy_src (s : State) : s.endBusy.src = s.src := rfl
@[simp] theorem State.endBusy_wrk (s : State) : s.endBusy.wrk = s.wrk := rfl
@[simp] theorem State.endBusy_img (s : State) : s.endBusy.img = s.img := rfl
@[simp] theorem State.endBusy_pal (s : State) : s.endBusy.pal = s.pal := rfl
@[simp] theorem State.endBusy_dst (s : State) : s.endBusy.dst = s.dst := rfl
@[simp] theorem State.endBusy_script (s : State) : s.endBusy.script = s.script := rfl
@[simp] theorem State.endBusy_replies (s : State) : s.endBusy.replies = s.replies := rfl
@[simp] theorem State.endBusy_draws (s : State) : s.endBusy.draws = s.draws := rfl
@[simp] theorem State.endBusy_fresh (s : State) : s.endBusy.fresh = s.fresh := rfl
@[simp] theorem State.endBusy_epoch (s : State) : s.endBusy.epoch = s.epoch := rfl
@[simp] theorem State.endBusy_wrkEpoch (s : State) : s.endBusy.wrkEpoch = s.wrkEpoch := rfl

/-! `State.goto` -/

@[simp] theorem State.goto_status (s : State) (c : PhCode) : (s.goto c).status = s.status := rfl
@[simp] theorem State.goto_numpix (s : State) (c : PhCode) : (s.goto c).numpix = s.numpix := rfl
@[simp] theorem State.goto_iter (s : State) (c : PhCode) : (s.goto c).iter = s.iter := rfl
@[simp] theorem State.goto_dark (s : State) (c : PhCode) : (s.goto c).dark = s.dark := rfl
@[simp] theorem State.goto_ph (s : State) (c : PhCode) : (s.goto c).ph = c := rfl
@[simp] theorem State.goto_op (s : State) (c : PhCode) : (s.goto c).op = s.op := rfl
@[simp] theorem State.goto_changed (s : State) (c : PhCode) : (s.goto c).changed = s.changed := rfl
@[simp] theorem State.goto_best (s : State) (c : PhCode) : (s.goto c).best = s.best := rfl
@[simp] theorem State.goto_bestd (s : State) (c : PhCode) : (s.goto c).bestd = s.bestd := rfl
@[simp] theorem State.goto_cent (s : State) (c : PhCode) : (s.goto c).cent = s.cent := rfl
@[simp] theorem State.goto_acc (s : State) (c : PhCode) : (s.goto c).acc = s.acc := rfl
@[simp] theorem State.goto_lum (s : State) (c : PhCode) : (s.goto c).lum = s.lum := rfl
@[simp] theorem State.goto_lut (s : State) (c : PhCode) : (s.goto c).lut = s.lut := rfl
@[simp] theorem State.goto_src (s : State) (c : PhCode) : (s.goto c).src = s.src := rfl
@[simp] theorem State.goto_wrk (s : State) (c : PhCode) : (s.goto c).wrk = s.wrk := rfl
@[simp] theorem State.goto_img (s : State) (c : PhCode) : (s.goto c).img = s.img := rfl
@[simp] theorem State.goto_pal (s : State) (c : PhCode) : (s.goto c).pal = s.pal := rfl
@[simp] theorem State.goto_dst (s : State) (c : PhCode) : (s.goto c).dst = s.dst := rfl
@[simp] theorem State.goto_script (s : State) (c : PhCode) : (s.goto c).script = s.script := rfl
@[simp] theorem State.goto_replies (s : State) (c : PhCode) : (s.goto c).replies = s.replies := rfl
@[simp] theorem State.goto_draws (s : State) (c : PhCode) : (s.goto c).draws = s.draws := rfl
@[simp] theorem State.goto_fresh (s : State) (c : PhCode) : (s.goto c).fresh = s.fresh := rfl
@[simp] theorem State.goto_epoch (s : State) (c : PhCode) : (s.goto c).epoch = s.epoch := rfl
@[simp] theorem State.goto_wrkEpoch (s : State) (c : PhCode) : (s.goto c).wrkEpoch = s.wrkEpoch := rfl

/-! `State.raise` -/

@[simp] theorem State.raise_status (s : State) (code info : BitVec 4) : (s.raise code info).status = ⟨false, false, true, code, info⟩ := rfl
@[simp] theorem State.raise_numpix (s : State) (code info : BitVec 4) : (s.raise code info).numpix = s.numpix := rfl
@[simp] theorem State.raise_iter (s : State) (code info : BitVec 4) : (s.raise code info).iter = s.iter := rfl
@[simp] theorem State.raise_dark (s : State) (code info : BitVec 4) : (s.raise code info).dark = s.dark := rfl
@[simp] theorem State.raise_ph (s : State) (code info : BitVec 4) : (s.raise code info).ph = PhaseCode.idle := rfl
@[simp] theorem State.raise_op (s : State) (code info : BitVec 4) : (s.raise code info).op = s.op := rfl
@[simp] theorem State.raise_changed (s : State) (code info : BitVec 4) : (s.raise code info).changed = s.changed := rfl
@[simp] theorem State.raise_best (s : State) (code info : BitVec 4) : (s.raise code info).best = s.best := rfl
@[simp] theorem State.raise_bestd (s : State) (code info : BitVec 4) : (s.raise code info).bestd = s.bestd := rfl
@[simp] theorem State.raise_cent (s : State) (code info : BitVec 4) : (s.raise code info).cent = s.cent := rfl
@[simp] theorem State.raise_acc (s : State) (code info : BitVec 4) : (s.raise code info).acc = s.acc := rfl
@[simp] theorem State.raise_lum (s : State) (code info : BitVec 4) : (s.raise code info).lum = s.lum := rfl
@[simp] theorem State.raise_lut (s : State) (code info : BitVec 4) : (s.raise code info).lut = s.lut := rfl
@[simp] theorem State.raise_src (s : State) (code info : BitVec 4) : (s.raise code info).src = s.src := rfl
@[simp] theorem State.raise_wrk (s : State) (code info : BitVec 4) : (s.raise code info).wrk = s.wrk := rfl
@[simp] theorem State.raise_img (s : State) (code info : BitVec 4) : (s.raise code info).img = s.img := rfl
@[simp] theorem State.raise_pal (s : State) (code info : BitVec 4) : (s.raise code info).pal = s.pal := rfl
@[simp] theorem State.raise_dst (s : State) (code info : BitVec 4) : (s.raise code info).dst = s.dst := rfl
@[simp] theorem State.raise_script (s : State) (code info : BitVec 4) : (s.raise code info).script = s.script := rfl
@[simp] theorem State.raise_replies (s : State) (code info : BitVec 4) : (s.raise code info).replies = s.replies := rfl
@[simp] theorem State.raise_draws (s : State) (code info : BitVec 4) : (s.raise code info).draws = s.draws := rfl
@[simp] theorem State.raise_fresh (s : State) (code info : BitVec 4) : (s.raise code info).fresh = s.fresh := rfl
@[simp] theorem State.raise_epoch (s : State) (code info : BitVec 4) : (s.raise code info).epoch = s.epoch := rfl
@[simp] theorem State.raise_wrkEpoch (s : State) (code info : BitVec 4) : (s.raise code info).wrkEpoch = s.wrkEpoch := rfl

/-! `State.start` -/

@[simp] theorem State.start_status (s : State) (o : BitVec 2) : (s.start o).status = { s.status with busy := true } := rfl
@[simp] theorem State.start_numpix (s : State) (o : BitVec 2) : (s.start o).numpix = s.numpix := rfl
@[simp] theorem State.start_iter (s : State) (o : BitVec 2) : (s.start o).iter = s.iter := rfl
@[simp] theorem State.start_dark (s : State) (o : BitVec 2) : (s.start o).dark = s.dark := rfl
@[simp] theorem State.start_ph (s : State) (o : BitVec 2) : (s.start o).ph = PhaseCode.argchk := rfl
@[simp] theorem State.start_op (s : State) (o : BitVec 2) : (s.start o).op = o := rfl
@[simp] theorem State.start_changed (s : State) (o : BitVec 2) : (s.start o).changed = s.changed := rfl
@[simp] theorem State.start_best (s : State) (o : BitVec 2) : (s.start o).best = s.best := rfl
@[simp] theorem State.start_bestd (s : State) (o : BitVec 2) : (s.start o).bestd = s.bestd := rfl
@[simp] theorem State.start_cent (s : State) (o : BitVec 2) : (s.start o).cent = s.cent := rfl
@[simp] theorem State.start_acc (s : State) (o : BitVec 2) : (s.start o).acc = s.acc := rfl
@[simp] theorem State.start_lum (s : State) (o : BitVec 2) : (s.start o).lum = s.lum := rfl
@[simp] theorem State.start_lut (s : State) (o : BitVec 2) : (s.start o).lut = s.lut := rfl
@[simp] theorem State.start_src (s : State) (o : BitVec 2) : (s.start o).src = s.src := rfl
@[simp] theorem State.start_wrk (s : State) (o : BitVec 2) : (s.start o).wrk = s.wrk := rfl
@[simp] theorem State.start_img (s : State) (o : BitVec 2) : (s.start o).img = s.img := rfl
@[simp] theorem State.start_pal (s : State) (o : BitVec 2) : (s.start o).pal = s.pal := rfl
@[simp] theorem State.start_dst (s : State) (o : BitVec 2) : (s.start o).dst = s.dst := rfl
@[simp] theorem State.start_script (s : State) (o : BitVec 2) : (s.start o).script = s.script := rfl
@[simp] theorem State.start_replies (s : State) (o : BitVec 2) : (s.start o).replies = s.replies := rfl
@[simp] theorem State.start_draws (s : State) (o : BitVec 2) : (s.start o).draws = s.draws := rfl
@[simp] theorem State.start_fresh (s : State) (o : BitVec 2) : (s.start o).fresh = s.fresh := rfl
@[simp] theorem State.start_epoch (s : State) (o : BitVec 2) : (s.start o).epoch = s.epoch := rfl
@[simp] theorem State.start_wrkEpoch (s : State) (o : BitVec 2) : (s.start o).wrkEpoch = s.wrkEpoch := rfl

/-! `State.dropDraws` -/

@[simp] theorem State.dropDraws_status (s : State) (n : Nat) : (s.dropDraws n).status = s.status := rfl
@[simp] theorem State.dropDraws_numpix (s : State) (n : Nat) : (s.dropDraws n).numpix = s.numpix := rfl
@[simp] theorem State.dropDraws_iter (s : State) (n : Nat) : (s.dropDraws n).iter = s.iter := rfl
@[simp] theorem State.dropDraws_dark (s : State) (n : Nat) : (s.dropDraws n).dark = s.dark := rfl
@[simp] theorem State.dropDraws_ph (s : State) (n : Nat) : (s.dropDraws n).ph = s.ph := rfl
@[simp] theorem State.dropDraws_op (s : State) (n : Nat) : (s.dropDraws n).op = s.op := rfl
@[simp] theorem State.dropDraws_changed (s : State) (n : Nat) : (s.dropDraws n).changed = s.changed := rfl
@[simp] theorem State.dropDraws_best (s : State) (n : Nat) : (s.dropDraws n).best = s.best := rfl
@[simp] theorem State.dropDraws_bestd (s : State) (n : Nat) : (s.dropDraws n).bestd = s.bestd := rfl
@[simp] theorem State.dropDraws_cent (s : State) (n : Nat) : (s.dropDraws n).cent = s.cent := rfl
@[simp] theorem State.dropDraws_acc (s : State) (n : Nat) : (s.dropDraws n).acc = s.acc := rfl
@[simp] theorem State.dropDraws_lum (s : State) (n : Nat) : (s.dropDraws n).lum = s.lum := rfl
@[simp] theorem State.dropDraws_lut (s : State) (n : Nat) : (s.dropDraws n).lut = s.lut := rfl
@[simp] theorem State.dropDraws_src (s : State) (n : Nat) : (s.dropDraws n).src = s.src := rfl
@[simp] theorem State.dropDraws_wrk (s : State) (n : Nat) : (s.dropDraws n).wrk = s.wrk := rfl
@[simp] theorem State.dropDraws_img (s : State) (n : Nat) : (s.dropDraws n).img = s.img := rfl
@[simp] theorem State.dropDraws_pal (s : State) (n : Nat) : (s.dropDraws n).pal = s.pal := rfl
@[simp] theorem State.dropDraws_dst (s : State) (n : Nat) : (s.dropDraws n).dst = s.dst := rfl
@[simp] theorem State.dropDraws_script (s : State) (n : Nat) : (s.dropDraws n).script = s.script := rfl
@[simp] theorem State.dropDraws_replies (s : State) (n : Nat) : (s.dropDraws n).replies = s.replies := rfl
@[simp] theorem State.dropDraws_draws (s : State) (n : Nat) : (s.dropDraws n).draws = s.draws.drop n := rfl
@[simp] theorem State.dropDraws_fresh (s : State) (n : Nat) : (s.dropDraws n).fresh = s.fresh + n := rfl
@[simp] theorem State.dropDraws_epoch (s : State) (n : Nat) : (s.dropDraws n).epoch = s.epoch := rfl
@[simp] theorem State.dropDraws_wrkEpoch (s : State) (n : Nat) : (s.dropDraws n).wrkEpoch = s.wrkEpoch := rfl

/-! `State.reply` -/

@[simp] theorem State.reply_status (s : State) (r : Reply) : (s.reply r).status = s.status := rfl
@[simp] theorem State.reply_numpix (s : State) (r : Reply) : (s.reply r).numpix = s.numpix := rfl
@[simp] theorem State.reply_iter (s : State) (r : Reply) : (s.reply r).iter = s.iter := rfl
@[simp] theorem State.reply_dark (s : State) (r : Reply) : (s.reply r).dark = s.dark := rfl
@[simp] theorem State.reply_ph (s : State) (r : Reply) : (s.reply r).ph = s.ph := rfl
@[simp] theorem State.reply_op (s : State) (r : Reply) : (s.reply r).op = s.op := rfl
@[simp] theorem State.reply_changed (s : State) (r : Reply) : (s.reply r).changed = s.changed := rfl
@[simp] theorem State.reply_best (s : State) (r : Reply) : (s.reply r).best = s.best := rfl
@[simp] theorem State.reply_bestd (s : State) (r : Reply) : (s.reply r).bestd = s.bestd := rfl
@[simp] theorem State.reply_cent (s : State) (r : Reply) : (s.reply r).cent = s.cent := rfl
@[simp] theorem State.reply_acc (s : State) (r : Reply) : (s.reply r).acc = s.acc := rfl
@[simp] theorem State.reply_lum (s : State) (r : Reply) : (s.reply r).lum = s.lum := rfl
@[simp] theorem State.reply_lut (s : State) (r : Reply) : (s.reply r).lut = s.lut := rfl
@[simp] theorem State.reply_src (s : State) (r : Reply) : (s.reply r).src = s.src := rfl
@[simp] theorem State.reply_wrk (s : State) (r : Reply) : (s.reply r).wrk = s.wrk := rfl
@[simp] theorem State.reply_img (s : State) (r : Reply) : (s.reply r).img = s.img := rfl
@[simp] theorem State.reply_pal (s : State) (r : Reply) : (s.reply r).pal = s.pal := rfl
@[simp] theorem State.reply_dst (s : State) (r : Reply) : (s.reply r).dst = s.dst := rfl
@[simp] theorem State.reply_script (s : State) (r : Reply) : (s.reply r).script = s.script := rfl
@[simp] theorem State.reply_replies (s : State) (r : Reply) : (s.reply r).replies = r :: s.replies := rfl
@[simp] theorem State.reply_draws (s : State) (r : Reply) : (s.reply r).draws = s.draws := rfl
@[simp] theorem State.reply_fresh (s : State) (r : Reply) : (s.reply r).fresh = s.fresh := rfl
@[simp] theorem State.reply_epoch (s : State) (r : Reply) : (s.reply r).epoch = s.epoch := rfl
@[simp] theorem State.reply_wrkEpoch (s : State) (r : Reply) : (s.reply r).wrkEpoch = s.wrkEpoch := rfl

@[simp] theorem State.mem_src (s : State) : s.mem .src = s.src := rfl
@[simp] theorem State.mem_img (s : State) : s.mem .img = s.img := rfl
@[simp] theorem State.mem_pal (s : State) : s.mem .pal = s.pal := rfl
@[simp] theorem State.mem_dst (s : State) : s.mem .dst = s.dst := rfl

@[simp] theorem State.setMem_status (s : State) (m : MemName) (c : Memory Byte) : (s.setMem m c).status = s.status := by
  cases m <;> rfl
@[simp] theorem State.setMem_numpix (s : State) (m : MemName) (c : Memory Byte) : (s.setMem m c).numpix = s.numpix := by
  cases m <;> rfl
@[simp] theorem State.setMem_iter (s : State) (m : MemName) (c : Memory Byte) : (s.setMem m c).iter = s.iter := by
  cases m <;> rfl
@[simp] theorem State.setMem_dark (s : State) (m : MemName) (c : Memory Byte) : (s.setMem m c).dark = s.dark := by
  cases m <;> rfl
@[simp] theorem State.setMem_ph (s : State) (m : MemName) (c : Memory Byte) : (s.setMem m c).ph = s.ph := by
  cases m <;> rfl
@[simp] theorem State.setMem_op (s : State) (m : MemName) (c : Memory Byte) : (s.setMem m c).op = s.op := by
  cases m <;> rfl
@[simp] theorem State.setMem_changed (s : State) (m : MemName) (c : Memory Byte) : (s.setMem m c).changed = s.changed := by
  cases m <;> rfl
@[simp] theorem State.setMem_best (s : State) (m : MemName) (c : Memory Byte) : (s.setMem m c).best = s.best := by
  cases m <;> rfl
@[simp] theorem State.setMem_bestd (s : State) (m : MemName) (c : Memory Byte) : (s.setMem m c).bestd = s.bestd := by
  cases m <;> rfl
@[simp] theorem State.setMem_cent (s : State) (m : MemName) (c : Memory Byte) : (s.setMem m c).cent = s.cent := by
  cases m <;> rfl
@[simp] theorem State.setMem_acc (s : State) (m : MemName) (c : Memory Byte) : (s.setMem m c).acc = s.acc := by
  cases m <;> rfl
@[simp] theorem State.setMem_lum (s : State) (m : MemName) (c : Memory Byte) : (s.setMem m c).lum = s.lum := by
  cases m <;> rfl
@[simp] theorem State.setMem_lut (s : State) (m : MemName) (c : Memory Byte) : (s.setMem m c).lut = s.lut := by
  cases m <;> rfl
@[simp] theorem State.setMem_wrk (s : State) (m : MemName) (c : Memory Byte) : (s.setMem m c).wrk = s.wrk := by
  cases m <;> rfl
@[simp] theorem State.setMem_script (s : State) (m : MemName) (c : Memory Byte) : (s.setMem m c).script = s.script := by
  cases m <;> rfl
@[simp] theorem State.setMem_replies (s : State) (m : MemName) (c : Memory Byte) : (s.setMem m c).replies = s.replies := by
  cases m <;> rfl
@[simp] theorem State.setMem_draws (s : State) (m : MemName) (c : Memory Byte) : (s.setMem m c).draws = s.draws := by
  cases m <;> rfl
@[simp] theorem State.setMem_fresh (s : State) (m : MemName) (c : Memory Byte) : (s.setMem m c).fresh = s.fresh := by
  cases m <;> rfl
@[simp] theorem State.setMem_epoch (s : State) (m : MemName) (c : Memory Byte) : (s.setMem m c).epoch = s.epoch := by
  cases m <;> rfl
@[simp] theorem State.setMem_wrkEpoch (s : State) (m : MemName) (c : Memory Byte) : (s.setMem m c).wrkEpoch = s.wrkEpoch := by
  cases m <;> rfl

@[simp] theorem State.setMem_mem (s : State) (m : MemName) (c : Memory Byte) : (s.setMem m c).mem m = c := by
  cases m <;> rfl

theorem State.setMem_mem_of_ne (s : State) {m m' : MemName} (c : Memory Byte) (h : m' ≠ m) :
    (s.setMem m c).mem m' = s.mem m' := by
  cases m <;> cases m' <;> first | rfl | exact absurd rfl h

/-! The error entries are one operation (60 R221). -/

@[simp] theorem State.raiseInvalidArgument_eq (s : State) (info : BitVec 4) :
    s.raiseInvalidArgument info = s.raise 1 info := rfl

@[simp] theorem State.raiseIllegalCommand_eq (s : State) : s.raiseIllegalCommand = s.raise 2 0 := rfl

end Sys2Proof.Machine
end

