-- ==== Sys2Proof/Laws/Ops.lean ====
section
/-! SUPPORT. What each shared operation can do, said once: the loop, the memories and their canonical form, the
register files, acceptance, the range check of a phase, the draws, and reset. -/

namespace Sys2Proof.Machine

/-! ## The loop -/

@[simp] theorem loop_zero {σ : Type} (body : Nat → σ → σ) (s : σ) : loop 0 body s = s := rfl

theorem loop_succ {σ : Type} (n : Nat) (body : Nat → σ → σ) (s : σ) :
    loop (n + 1) body s = body n (loop n body s) := rfl

/-- The rule of the loop: what holds before the first pass and is kept by each pass holds after the last. -/
theorem loop_ind {σ : Type} {body : Nat → σ → σ} {s : σ} (P : Nat → σ → Prop) (n : Nat) (h0 : P 0 s)
    (hstep : ∀ i x, i < n → P i x → P (i + 1) (body i x)) : P n (loop n body s) := by
  induction n with
  | zero => exact h0
  | succ n ih =>
    exact hstep n _ (Nat.lt_succ_self n) (ih fun i x hi hx => hstep i x (Nat.lt_succ_of_lt hi) hx)

/-- Two loops whose bodies agree on the passes they make give the same. -/
theorem loop_congr {σ : Type} {f g : Nat → σ → σ} {s : σ} (n : Nat) (h : ∀ i x, i < n → f i x = g i x) :
    loop n f s = loop n g s := by
  induction n with
  | zero => rfl
  | succ n ih =>
    rw [loop_succ, loop_succ, h n _ (Nat.lt_succ_self n),
      ih fun i x hi => h i x (Nat.lt_succ_of_lt hi)]

/-! ## Memories -/

@[simp] theorem Memory.get?_nil {α : Type} (a : Nat) : Memory.get? ([] : Memory α) a = none := rfl

/-- A read after a write: the value at the address written, the old value elsewhere. -/
theorem Memory.get?_put {α : Type} (m : Memory α) (a b : Nat) (v : α) :
    (m.put a v).get? b = if b = a then some v else m.get? b := by
  induction m with
  | nil => simp [Memory.put, Memory.get?]
  | cons x rest ih =>
    obtain ⟨c, w⟩ := x
    by_cases h1 : a < c
    · simp [Memory.put, Memory.get?, h1]
    · by_cases h2 : a = c
      · subst h2
        simp only [Memory.put, Memory.get?, Nat.lt_irrefl, if_false, if_true]
        by_cases hb : b = a <;> simp [hb]
      · simp only [Memory.put, Memory.get?, h1, h2, if_false, ih]
        by_cases hb : b = c
        · subst hb
          simp [Ne.symm h2]
        · simp [hb]

@[simp] theorem Memory.get?_put_self {α : Type} (m : Memory α) (a : Nat) (v : α) : (m.put a v).get? a = some v := by
  simp [Memory.get?_put]

theorem Memory.get?_put_ne {α : Type} (m : Memory α) {a b : Nat} (v : α) (h : b ≠ a) :
    (m.put a v).get? b = m.get? b := by
  simp [Memory.get?_put, h]

/-- The cells after a write are the old ones and the new one. -/
theorem Memory.mem_put {α : Type} {m : Memory α} {a : Nat} {v : α} {x : Nat × α} (h : x ∈ m.put a v) :
    x = (a, v) ∨ x ∈ m := by
  induction m with
  | nil => simpa [Memory.put] using h
  | cons y rest ih =>
    obtain ⟨c, w⟩ := y
    unfold Memory.put at h
    split at h
    · simpa using h
    · split at h
      · rcases List.mem_cons.mp h with h | h
        · exact .inl h
        · exact .inr (List.mem_cons_of_mem _ h)
      · rcases List.mem_cons.mp h with h | h
        · exact .inr (by simp [h])
        · exact (ih h).imp id (List.mem_cons_of_mem _)

/-- A write keeps the canonical form. -/
theorem Memory.put_wf {α : Type} {m : Memory α} (a : Nat) (v : α) (h : m.wf) : (m.put a v).wf := by
  induction m with
  | nil => simp [Memory.put, Memory.wf]
  | cons y rest ih =>
    obtain ⟨c, w⟩ := y
    obtain ⟨hc, hr⟩ := List.pairwise_cons.mp h
    unfold Memory.put
    split
    · rename_i hac
      refine List.pairwise_cons.mpr ⟨fun x hx => ?_, h⟩
      rcases List.mem_cons.mp hx with rfl | hx
      · exact hac
      · exact Nat.lt_trans hac (hc x hx)
    · split
      · rename_i hac
        subst hac
        exact List.pairwise_cons.mpr ⟨hc, hr⟩
      · rename_i h1 h2
        refine List.pairwise_cons.mpr ⟨fun x hx => ?_, ih hr⟩
        rcases Memory.mem_put hx with rfl | hx
        · show c < a
          omega
        · exact hc x hx

/-- A write below `size` keeps every cell below `size`. -/
theorem Memory.put_below {α : Type} {m : Memory α} {size a : Nat} (v : α) (h : m.below size) (ha : a < size) :
    (m.put a v).below size := by
  intro x hx
  rcases Memory.mem_put hx with rfl | hx
  · exact ha
  · exact h x hx

theorem Memory.nil_ok {α : Type} (size : Nat) : Memory.Ok ([] : Memory α) size :=
  ⟨List.Pairwise.nil, fun _ h => absurd h (by simp)⟩

theorem Memory.put_ok {α : Type} {m : Memory α} {size a : Nat} (v : α) (h : m.Ok size) (ha : a < size) :
    (m.put a v).Ok size :=
  ⟨Memory.put_wf a v h.1, Memory.put_below v h.2 ha⟩

/-- A loop of writes keeps both. -/
theorem Memory.loop_ok {α : Type} {m : Memory α} {size n : Nat} {body : Nat → Memory α → Memory α} (h : m.Ok size)
    (hstep : ∀ i c, i < n → Memory.Ok c size → (body i c).Ok size) : (loop n body m).Ok size :=
  loop_ind (fun _ c => Memory.Ok c size) n h hstep

/-- A loop that writes cell `i` in pass `i`, from what cell `i` held: every cell below `n` is written once. -/
theorem Memory.get?_loop_put {α : Type} (m : Memory α) (n : Nat) (f : Nat → Memory α → α) (g : Nat → Option α → α)
    (hf : ∀ i c, f i c = g i (c.get? i)) (b : Nat) :
    (loop n (fun i c => c.put i (f i c)) m).get? b = if b < n then some (g b (m.get? b)) else m.get? b := by
  induction n with
  | zero => simp
  | succ n ih =>
    rw [loop_succ, Memory.get?_put, hf]
    by_cases hb : b = n
    · subst hb
      simp [ih]
    · have : b < n + 1 ↔ b < n := by omega
      simp [hb, ih, this]

theorem memSize_pal : memSize .pal = 48 := rfl

theorem memSize_src : memSize .src = 4 * Config.maxPix := rfl

theorem memSize_img : memSize .img = Config.maxPix / 2 := rfl

theorem memSize_dst : memSize .dst = 4 * Config.maxPix := rfl

/-- The bounds of `MAXPIX` (00 R7). -/
theorem maxPix_bounds : 2 ≤ Config.maxPix ∧ Config.maxPix ≤ 16777216 ∧ Config.maxPix % 2 = 0 := by
  have := Config.halfMaxPix.isLt
  unfold Config.maxPix
  omega

/-! ## Byte memories in the state -/

/-- What a byte reads as depends on the cells and on `epoch` alone. -/
theorem State.byteIn_congr {s t : State} (h : t.epoch = s.epoch) (m : MemName) (c : Memory Byte) (a : Nat) :
    t.byteIn m c a = s.byteIn m c a := by
  unfold State.byteIn
  rw [h]

/-- A memory that is unchanged reads as before. -/
theorem State.memRead_congr {s t : State} (m : MemName) (he : t.epoch = s.epoch) (hm : t.mem m = s.mem m) (a : Nat) :
    t.memRead m a = s.memRead m a := by
  unfold State.memRead
  rw [hm, State.byteIn_congr he]

/-- A memory that holds the cells `c` reads as they do. -/
theorem State.memRead_of_mem {s t : State} {m : MemName} {c : Memory Byte} (he : t.epoch = s.epoch)
    (hm : t.mem m = c) (a : Nat) : t.memRead m a = s.byteIn m c a := by
  unfold State.memRead
  rw [hm, State.byteIn_congr he]

/-- What an entry of `WRK` reads as depends on the cells and on `wrkEpoch` alone. -/
theorem State.wrkIn_congr {s t : State} (h : t.wrkEpoch = s.wrkEpoch) (c : Memory WrkEntry) (i : Nat) :
    t.wrkIn c i = s.wrkIn c i := by
  unfold State.wrkIn
  rw [h]

/-- A working store that holds the cells `c` reads as they do. -/
theorem State.wrkRead_of_wrk {s t : State} {c : Memory WrkEntry} (he : t.wrkEpoch = s.wrkEpoch) (hw : t.wrk = c)
    (i : Nat) : t.wrkRead i = s.wrkIn c i := by
  unfold State.wrkRead
  rw [hw, State.wrkIn_congr he]

theorem State.byteIn_put (s : State) (m : MemName) (c : Memory Byte) (a b : Nat) (v : Byte) :
    s.byteIn m (c.put a v) b = if b = a then v else s.byteIn m c b := by
  unfold State.byteIn
  rw [Memory.get?_put]
  split <;> simp

/-- `MemRead` after `MemWrite`: the byte written there, every other byte of every memory as before. -/
theorem State.memRead_memWrite (s : State) (m m' : MemName) (a b : Nat) (v : Byte) :
    (s.memWrite m a v).memRead m' b = if m' = m ∧ b = a then v else s.memRead m' b := by
  by_cases hm : m' = m
  · subst hm
    have : (s.memWrite m' a v).memRead m' b = s.byteIn m' ((s.mem m').put a v) b := by
      simp [State.memRead, State.memWrite, State.byteIn]
    rw [this, State.byteIn_put]
    simp [State.memRead]
  · simp [State.memRead, State.memWrite, State.byteIn, hm, State.setMem_mem_of_ne]

theorem State.wrkIn_put (s : State) (c : Memory WrkEntry) (a b : Nat) (e : WrkEntry) :
    s.wrkIn (c.put a e) b = if b = a then e else s.wrkIn c b := by
  unfold State.wrkIn
  rw [Memory.get?_put]
  split <;> simp

/-- What a loop that writes entry `i` of `WRK` in pass `i` leaves. -/
theorem State.wrkIn_loop (s : State) (w : Memory WrkEntry) (n : Nat) (g : Nat → WrkEntry → WrkEntry) (b : Nat) :
    s.wrkIn (loop n (fun i c => c.put i (g i (s.wrkIn c i))) w) b =
      if b < n then g b (s.wrkIn w b) else s.wrkIn w b := by
  induction n with
  | zero => simp
  | succ n ih =>
    rw [loop_succ, State.wrkIn_put]
    by_cases hb : b = n
    · subst hb
      simp [ih]
    · have : b < n + 1 ↔ b < n := by omega
      simp [hb, ih, this]

/-- What a loop that writes byte `j` in pass `j` leaves. -/
theorem State.byteIn_loop (s : State) (m : MemName) (c : Memory Byte) (n : Nat) (g : Nat → Byte → Byte) (b : Nat) :
    s.byteIn m (loop n (fun j c => c.put j (g j (s.byteIn m c j))) c) b =
      if b < n then g b (s.byteIn m c b) else s.byteIn m c b := by
  induction n with
  | zero => simp
  | succ n ih =>
    rw [loop_succ, State.byteIn_put]
    by_cases hb : b = n
    · subst hb
      simp [ih]
    · have : b < n + 1 ↔ b < n := by omega
      simp [hb, ih, this]

/-! ## Palette entries and pixels -/

theorem State.byteIn_putPalEntry (s : State) (m : MemName) (c : Memory Byte) (k : Label) (p : Rgb) (b : Nat) :
    s.byteIn m (putPalEntry c k p) b =
      if b = 3 * k.toNat + 2 then p.b
      else if b = 3 * k.toNat + 1 then p.g
      else if b = 3 * k.toNat then p.r
      else s.byteIn m c b := by
  simp [putPalEntry, State.byteIn_put, palAddr]

theorem State.byteIn_putPixel (s : State) (m : MemName) (c : Memory Byte) (i : Nat) (p : Rgb) (al : Byte) (b : Nat) :
    s.byteIn m (putPixel c i p al) b =
      if b = 4 * i + 3 then al
      else if b = 4 * i + 2 then p.b
      else if b = 4 * i + 1 then p.g
      else if b = 4 * i then p.r
      else s.byteIn m c b := by
  simp [putPixel, State.byteIn_put, pixAddr]

theorem putPalEntry_ok {c : Memory Byte} (k : Label) (p : Rgb) (h : c.Ok 48) : (putPalEntry c k p).Ok 48 := by
  have hk := k.isLt
  refine Memory.put_ok _ (Memory.put_ok _ (Memory.put_ok _ h ?_) ?_) ?_ <;> (simp only [palAddr]; omega)

theorem putPixel_ok {c : Memory Byte} {size i : Nat} (p : Rgb) (al : Byte) (h : c.Ok size) (hi : 4 * i + 3 < size) :
    (putPixel c i p al).Ok size := by
  refine Memory.put_ok _ (Memory.put_ok _ (Memory.put_ok _ (Memory.put_ok _ h ?_) ?_) ?_) ?_ <;>
    (simp only [pixAddr]; omega)

theorem scramble_ok {c : Memory Byte} {size count : Nat} (first : Nat) (h : c.Ok size) (hc : count ≤ size) :
    (scramble c first count).Ok size :=
  Memory.loop_ok h fun _ _ hi hx => Memory.put_ok _ hx (Nat.lt_of_lt_of_le hi hc)

theorem State.byteIn_scramble (s : State) (m : MemName) (c : Memory Byte) (first count b : Nat) :
    s.byteIn m (scramble c first count) b =
      if b < count then Config.freeByte (first + b) else s.byteIn m c b :=
  State.byteIn_loop s m c count (fun a _ => Config.freeByte (first + a)) b

/-! ## What a phase that replaced one memory reads -/

theorem State.memRead_img_goto (s : State) (c : Memory Byte) (p : PhCode) (a : Nat) :
    ({ s with img := c }.goto p : State).memRead .img a = s.byteIn .img c a := rfl

theorem State.memRead_pal_goto (s : State) (c : Memory Byte) (p : PhCode) (a : Nat) :
    ({ s with pal := c }.goto p : State).memRead .pal a = s.byteIn .pal c a := rfl

theorem State.memRead_dst_goto (s : State) (c : Memory Byte) (p : PhCode) (a : Nat) :
    ({ s with dst := c }.goto p : State).memRead .dst a = s.byteIn .dst c a := rfl

/-! ## Nibbles -/

@[simp] theorem hiNibble_packByte : ∀ h l : Label, hiNibble (packByte h l) = h := by decide

@[simp] theorem loNibble_packByte : ∀ h l : Label, loNibble (packByte h l) = l := by decide

@[simp] theorem packByte_nibbles : ∀ b : Byte, packByte (hiNibble b) (loNibble b) = b := by decide

/-! ## Files of sixteen -/

@[simp] theorem fileGet_fileSet {α : Type} (v : Vector α 16) (k j : Label) (a : α) :
    fileGet (fileSet v k a) j = if j = k then a else fileGet v j := by
  unfold fileGet fileSet
  rw [Vector.getElem_set]
  by_cases h : j = k
  · simp [h]
  · have : k.toNat ≠ j.toNat := fun e => h (BitVec.eq_of_toNat_eq e.symm)
    simp [h, this]

@[simp] theorem fileGet_ofFn {α : Type} (f : Fin 16 → α) (k : Label) : fileGet (Vector.ofFn f) k = f ⟨k.toNat, k.isLt⟩ := by
  simp [fileGet]

@[simp] theorem fileGet_replicate {α : Type} (a : α) (k : Label) : fileGet (Vector.replicate 16 a) k = a := by
  simp [fileGet]

/-! ## Acceptance, the range check, the draws -/

theorem State.accept_busy {s : State} (act : State → State) (h : s.status.busy = true) : s.accept act = s := by
  simp [State.accept, h]

theorem State.accept_idle {s : State} (act : State → State) (h : s.status.busy = false) :
    s.accept act = act s.clearFlags := by
  simp [State.accept, h]

/-- What `forImage` answers: the phase's state when `NUMPIX` fits, else the stop. -/
theorem State.forImage_cases (s : State) (act : Nat → State) :
    (s.numpix.toNat ≤ Config.maxPix ∧ s.forImage act = .next (act s.numpix.toNat)) ∨
    (Config.maxPix < s.numpix.toNat ∧ s.forImage act = .fault .engineAddress) := by
  by_cases h : s.numpix.toNat ≤ Config.maxPix
  · exact .inl ⟨h, by simp [State.forImage, h]⟩
  · exact .inr ⟨Nat.lt_of_not_le h, by simp [State.forImage, h]⟩

theorem State.forImage_next {s : State} (act : Nat → State) (h : s.numpix.toNat ≤ Config.maxPix) :
    s.forImage act = .next (act s.numpix.toNat) := by
  simp [State.forImage, h]

theorem State.of_forImage_next {s t : State} {act : Nat → State} (h : s.forImage act = .next t) :
    s.numpix.toNat ≤ Config.maxPix ∧ t = act s.numpix.toNat := by
  rcases s.forImage_cases act with ⟨hn, h'⟩ | ⟨_, h'⟩
  · rw [h'] at h
    exact ⟨hn, by simpa using h.symm⟩
  · rw [h'] at h
    exact absurd h (by simp)

/-- A draw that stands in the list is the one taken. -/
theorem State.draw_of_getElem? {s : State} {i : Nat} {v : Label} (h : s.draws[i]? = some v) : s.draw i = v := by
  simp [State.draw, h]

theorem State.imgBytes_le (s : State) : s.imgBytes ≤ memSize .img := Nat.min_le_right _ _

theorem State.dstBytes_le (s : State) : s.dstBytes ≤ memSize .dst := Nat.min_le_right _ _

end Sys2Proof.Machine
end

