-- ==== Sys2Proof/Laws/Exec.lean ====
section
/-! SUPPORT. One equation for each instruction: what `exec` answers, in terms of the shared operations, under the
condition the meaning itself checks. -/

namespace Sys2Proof.Machine

theorem exec_nop (s : State) : exec .nop s = .next (s.accept State.setDone) := rfl

theorem exec_quantize (s : State) : exec .quantize s = .next (s.accept fun s => s.start 1) := rfl

theorem exec_render (s : State) : exec .render s = .next (s.accept fun s => s.start 2) := rfl

theorem exec_idle (s : State) : exec .idle s = .next s := rfl

theorem exec_argchk_error {s : State} {info : BitVec 4} (h : argError Config.maxPix s.numpix.toNat = some info) :
    exec .argchk s = .next (s.raise 1 info) := by
  simp [exec, execArgchk, h]

theorem exec_argchk_ok {s : State} (h : argError Config.maxPix s.numpix.toNat = none) :
    exec .argchk s = .next (s.goto (if s.op = 1 then PhaseCode.copy else PhaseCode.expand)) := by
  simp [exec, execArgchk, h]

/-- `ARGCHK` finds nothing wrong exactly with a legal number of pixels (40 R123). -/
theorem argError_eq_none_iff (m n : Nat) : argError m n = none ↔ n ≠ 0 ∧ n % 2 ≠ 1 ∧ n ≤ m := by
  unfold argError
  split_ifs <;> simp <;> omega

theorem exec_copy {s : State} (h : s.numpix.toNat ≤ Config.maxPix) :
    exec .copy s = .next ({ s with wrk := s.copyWrk s.numpix.toNat }.goto PhaseCode.seed) := by
  rw [exec, execCopy, State.forImage_next _ h]

theorem exec_seed {s : State} (h : s.numpix.toNat ≤ Config.maxPix) :
    exec .seed s = .next (({ s with wrk := s.seedWrk s.numpix.toNat, iter := ⟨0, false⟩ }.dropDraws
      s.numpix.toNat).goto PhaseCode.clrcent) := by
  rw [exec, execSeed, State.forImage_next _ h]

theorem exec_clrcent (s : State) :
    exec .clrcent s = .next ({ s with cent := Vector.replicate 16 Rgb.black }.goto PhaseCode.clracc) := rfl

theorem exec_clracc (s : State) :
    exec .clracc s = .next ({ s with acc := Vector.replicate 16 Acc.zero }.goto PhaseCode.accum) := rfl

theorem exec_accum {s : State} (h : s.numpix.toNat ≤ Config.maxPix) :
    exec .accum s = .next ({ s with acc := s.accumAcc s.numpix.toNat }.goto PhaseCode.mean) := by
  rw [exec, execAccum, State.forImage_next _ h]

theorem exec_mean (s : State) :
    exec .mean s = .next ({ s with cent := Vector.ofFn fun k : Fin 16 => meanEntry s.acc[k] s.cent[k] }.goto
      PhaseCode.assign) := rfl

theorem exec_assign {s : State} (h : s.numpix.toNat ≤ Config.maxPix) :
    exec .assign s = .next ({ s with
      wrk := (s.assignAll s.numpix.toNat).wrk, changed := (s.assignAll s.numpix.toNat).changed,
      best := (s.assignAll s.numpix.toNat).best, bestd := (s.assignAll s.numpix.toNat).bestd }.goto
        PhaseCode.roundend) := by
  rw [exec, execAssign, State.forImage_next _ h]

/-- What `ROUNDEND` does to `ITER`, and where it goes (41 R154). -/
theorem exec_roundend (s : State) :
    exec .roundend s = .next
      (if s.changed = false then { s with iter := ⟨s.iter.rounds + 1, true⟩ }.goto PhaseCode.palout
       else { s with iter := ⟨s.iter.rounds + 1, s.iter.conv⟩ }.goto
        (if s.iter.rounds + 1 = Config.maxRounds then PhaseCode.palout else PhaseCode.clracc)) := by
  unfold exec execRoundend
  dsimp only
  split
  · rfl
  · split <;> rfl

theorem exec_palout (s : State) : exec .palout s = .next ({ s with pal := s.paloutPal }.goto PhaseCode.pack) := rfl

theorem exec_pack {s : State} (h : s.numpix.toNat ≤ Config.maxPix) :
    exec .pack s = .next ({ s with img := s.packImg s.numpix.toNat }.goto PhaseCode.luma) := by
  rw [exec, execPack, State.forImage_next _ h]

theorem exec_luma (s : State) :
    exec .luma s = .next ({ s with
      lum := Vector.ofFn fun k : Fin 16 => BitVec.ofNat 18 (luma1000 (s.palEntry (BitVec.ofNat 4 k.val))) }.goto
        PhaseCode.darkest) := rfl

theorem exec_darkest (s : State) :
    exec .darkest s = .next ({ s with dark := darkest s.lum }.goto PhaseCode.blackswap) := rfl

theorem exec_blackswap (s : State) :
    exec .blackswap s = .next ({ s with
      pal := if s.dark = 0 then blacken s.pal s.dark else s.swapEntries (blacken s.pal s.dark) s.dark }.goto
        PhaseCode.lutgen) := rfl

theorem exec_lutgen (s : State) :
    exec .lutgen s = .next ({ s with
      lut := Vector.ofFn fun b : Fin 256 => lutbyte s.dark (BitVec.ofNat 8 b.val) }.goto PhaseCode.relabel) := rfl

theorem exec_relabel {s : State} (h : s.numpix.toNat ≤ Config.maxPix) :
    exec .relabel s = .next ({ s with img := s.relabelImg s.numpix.toNat }.goto PhaseCode.finish) := by
  rw [exec, execRelabel, State.forImage_next _ h]

theorem exec_expand {s : State} (h : s.numpix.toNat ≤ Config.maxPix) :
    exec .expand s = .next ({ s with dst := s.expandDst s.numpix.toNat }.goto PhaseCode.finish) := by
  rw [exec, execExpand, State.forImage_next _ h]

theorem exec_finish (s : State) : exec .finish s = .next (s.endBusy.goto PhaseCode.idle) := rfl

/-- The instructions that reach into the memories of the image. -/
def usesImage (i : Instr) : Bool :=
  i ∈ [Instr.copy, .seed, .accum, .assign, .pack, .relabel, .expand]

/-- `exec` answers a next state for every instruction when `NUMPIX` fits, and for the others always. -/
theorem exec_answers (i : Instr) (s : State) (h : usesImage i = true → s.numpix.toNat ≤ Config.maxPix) :
    ∃ t, exec i s = .next t := by
  cases i
  case argchk =>
    cases ha : argError Config.maxPix s.numpix.toNat with
    | none => exact ⟨_, exec_argchk_ok ha⟩
    | some info => exact ⟨_, exec_argchk_error ha⟩
  case copy => exact ⟨_, exec_copy (h rfl)⟩
  case seed => exact ⟨_, exec_seed (h rfl)⟩
  case accum => exact ⟨_, exec_accum (h rfl)⟩
  case assign => exact ⟨_, exec_assign (h rfl)⟩
  case roundend => exact ⟨_, exec_roundend s⟩
  case pack => exact ⟨_, exec_pack (h rfl)⟩
  case relabel => exact ⟨_, exec_relabel (h rfl)⟩
  case expand => exact ⟨_, exec_expand (h rfl)⟩
  all_goals exact ⟨_, rfl⟩

/-- Where `exec` answers a next state, `NUMPIX` fits or the instruction does not reach into the image's memories. -/
theorem fits_of_exec_next {i : Instr} {s t : State} (h : exec i s = .next t) (hi : usesImage i = true) :
    s.numpix.toNat ≤ Config.maxPix := by
  cases i <;> first
    | exact absurd hi (by decide)
    | (simp only [exec, execCopy, execSeed, execAccum, execAssign, execPack, execRelabel, execExpand] at h
       exact (State.of_forImage_next h).1)

end Sys2Proof.Machine
end

