-- ==== Sys2Proof/Laws/Memory.lean ====
section
/-! SUPPORT. Every operation that writes a memory keeps its canonical form and its size (20 R60, R68), and reset's
memories have them. -/

namespace Sys2Proof.Machine

theorem State.copyWrk_ok {s : State} {size n : Nat} (h : s.wrk.Ok size) (hn : n ≤ size) : (s.copyWrk n).Ok size :=
  Memory.loop_ok h fun _ _ hi hx => Memory.put_ok _ hx (Nat.lt_of_lt_of_le hi hn)

theorem State.seedWrk_ok {s : State} {size n : Nat} (h : s.wrk.Ok size) (hn : n ≤ size) : (s.seedWrk n).Ok size :=
  Memory.loop_ok h fun _ _ hi hx => Memory.put_ok _ hx (Nat.lt_of_lt_of_le hi hn)

theorem State.assignPixel_ok {s : State} {size i : Nat} {a : AssignLoop} (h : a.wrk.Ok size) (hi : i < size) :
    (s.assignPixel i a).wrk.Ok size := by
  unfold State.assignPixel
  dsimp only
  split
  · exact h
  · exact Memory.put_ok _ h hi

theorem State.assignAll_ok {s : State} {size n : Nat} (h : s.wrk.Ok size) (hn : n ≤ size) :
    (s.assignAll n).wrk.Ok size := by
  unfold State.assignAll
  exact loop_ind (body := s.assignPixel) (s := ⟨s.wrk, false, s.best, s.bestd⟩)
    (fun _ (a : AssignLoop) => a.wrk.Ok size) n h
    fun i a hi ha => State.assignPixel_ok ha (Nat.lt_of_lt_of_le hi hn)

theorem State.paloutPal_ok {s : State} (h : s.pal.Ok 48) : s.paloutPal.Ok 48 :=
  Memory.loop_ok h fun _ _ _ hx => putPalEntry_ok _ _ hx

theorem State.packImg_ok {s : State} {size n : Nat} (h : s.img.Ok size) (hn : n / 2 ≤ size) : (s.packImg n).Ok size :=
  Memory.loop_ok h fun _ _ hi hx => Memory.put_ok _ hx (Nat.lt_of_lt_of_le hi hn)

theorem blacken_ok {c : Memory Byte} (d : Label) (h : c.Ok 48) : (blacken c d).Ok 48 := putPalEntry_ok _ _ h

theorem State.swapEntries_ok {s : State} {c : Memory Byte} (d : Label) (h : c.Ok 48) : (s.swapEntries c d).Ok 48 := by
  have hd := d.isLt
  refine Memory.loop_ok h fun i x hi hx => ?_
  refine Memory.put_ok _ (Memory.put_ok _ hx ?_) ?_
  · show 3 * 0 + i < 48
    omega
  · show 3 * d.toNat + i < 48
    omega

theorem State.relabelImg_ok {s : State} {size n : Nat} (h : s.img.Ok size) (hn : n / 2 ≤ size) :
    (s.relabelImg n).Ok size :=
  Memory.loop_ok h fun _ _ hi hx => Memory.put_ok _ hx (Nat.lt_of_lt_of_le hi hn)

theorem State.expandDst_ok {s : State} {size n : Nat} (h : s.dst.Ok size) (hn : 4 * n ≤ size) : (s.expandDst n).Ok size :=
  Memory.loop_ok h fun _ _ _ hx => putPixel_ok _ _ hx (by omega)

/-- A host write below the memory's size keeps the memory it writes. -/
theorem State.memWrite_ok {s : State} {m : MemName} {a : Nat} (v : Byte) (h : (s.mem m).Ok (memSize m))
    (ha : a < memSize m) : ((s.memWrite m a v).mem m).Ok (memSize m) := by
  rw [State.memWrite, State.setMem_mem]
  exact Memory.put_ok v h ha

theorem State.reset_mem_ok (m : MemName) (size : Nat) : (State.reset.mem m).Ok size := by
  cases m <;> exact Memory.nil_ok size

theorem State.reset_wrk_ok (size : Nat) : State.reset.wrk.Ok size := Memory.nil_ok size

end Sys2Proof.Machine
end

