-- ==== Sys2Proof/Laws/PerInstr.lean ====
section
/-! SUPPORT. Statements about every instruction as syntax, one lemma for each constructor. -/

/-- Family `Encodes`: the instruction is well formed, its word decodes to it, and the word has the instruction's
format (30 R90, R93, R100). -/
def Sys2Proof.Laws.Encodes.Statement (i : Sys2Proof.Instr) : Prop :=
  i.wf = true ∧ Sys2Proof.decode (Sys2Proof.encode i) = .ok i ∧
    match Sys2Proof.encode i with
    | .cmd _ => i.format = .cmd
    | .uop _ => i.format = .uop

namespace Sys2Proof.Laws.Encodes

theorem nop : Sys2Proof.Laws.Encodes.Statement .nop := ⟨rfl, rfl, rfl⟩

theorem quantize : Sys2Proof.Laws.Encodes.Statement .quantize := ⟨rfl, rfl, rfl⟩

theorem render : Sys2Proof.Laws.Encodes.Statement .render := ⟨rfl, rfl, rfl⟩

theorem idle : Sys2Proof.Laws.Encodes.Statement .idle := ⟨rfl, rfl, rfl⟩

theorem argchk : Sys2Proof.Laws.Encodes.Statement .argchk := ⟨rfl, rfl, rfl⟩

theorem copy : Sys2Proof.Laws.Encodes.Statement .copy := ⟨rfl, rfl, rfl⟩

theorem seed : Sys2Proof.Laws.Encodes.Statement .seed := ⟨rfl, rfl, rfl⟩

theorem clrcent : Sys2Proof.Laws.Encodes.Statement .clrcent := ⟨rfl, rfl, rfl⟩

theorem clracc : Sys2Proof.Laws.Encodes.Statement .clracc := ⟨rfl, rfl, rfl⟩

theorem accum : Sys2Proof.Laws.Encodes.Statement .accum := ⟨rfl, rfl, rfl⟩

theorem mean : Sys2Proof.Laws.Encodes.Statement .mean := ⟨rfl, rfl, rfl⟩

theorem assign : Sys2Proof.Laws.Encodes.Statement .assign := ⟨rfl, rfl, rfl⟩

theorem roundend : Sys2Proof.Laws.Encodes.Statement .roundend := ⟨rfl, rfl, rfl⟩

theorem palout : Sys2Proof.Laws.Encodes.Statement .palout := ⟨rfl, rfl, rfl⟩

theorem pack : Sys2Proof.Laws.Encodes.Statement .pack := ⟨rfl, rfl, rfl⟩

theorem luma : Sys2Proof.Laws.Encodes.Statement .luma := ⟨rfl, rfl, rfl⟩

theorem darkest : Sys2Proof.Laws.Encodes.Statement .darkest := ⟨rfl, rfl, rfl⟩

theorem blackswap : Sys2Proof.Laws.Encodes.Statement .blackswap := ⟨rfl, rfl, rfl⟩

theorem lutgen : Sys2Proof.Laws.Encodes.Statement .lutgen := ⟨rfl, rfl, rfl⟩

theorem relabel : Sys2Proof.Laws.Encodes.Statement .relabel := ⟨rfl, rfl, rfl⟩

theorem expand : Sys2Proof.Laws.Encodes.Statement .expand := ⟨rfl, rfl, rfl⟩

theorem finish : Sys2Proof.Laws.Encodes.Statement .finish := ⟨rfl, rfl, rfl⟩

end Sys2Proof.Laws.Encodes
end

