-- ==== Sys2Proof/Laws/Step.lean ====
section
/-! SUPPORT. What the fetch and the step can do, said once. -/

namespace Sys2Proof.Machine

/-- Every fetch, by the event that stands first. -/
theorem fetchNext_nil {s : State} (h : s.script = []) : fetchNext s = fetchPhase s := by
  simp [fetchNext, h]

theorem fetchNext_engine {s : State} {rest : List HostEvent} (h : s.script = .engine :: rest) :
    fetchNext s = fetchPhase { s with script := rest } := by
  simp [fetchNext, h]

theorem fetchNext_wait {s : State} {rest : List HostEvent} (h : s.script = .wait :: rest) :
    fetchNext s = .settled (pollStatus rest { s with script := rest }) := by
  simp [fetchNext, h]

theorem fetchNext_txn {s : State} {t : Txn} {rest : List HostEvent} (h : s.script = .txn t :: rest) :
    fetchNext s = hostTxn t { s with script := rest } := by
  simp [fetchNext, h]

/-- An admitted write of a command word is fetched as a command. -/
theorem hostTxn_cmd (w : Reg32) (s : State) :
    hostTxn (.regWrite .w32 0x00 w) s = fetchCommand w (s.reply .written) := rfl

/-- A step is one of three: an instruction that `fetchNext` found, run; a transaction, settled; or a stop. -/
theorem step_cases {s t : State} (h : step s = .next t) :
    (∃ i u, fetchNext s = .run i u ∧ exec i u = .next t) ∨ fetchNext s = .settled t := by
  unfold step at h
  split at h
  · exact .inl ⟨_, _, ‹_›, h⟩
  · exact .inr (by simp_all)
  · exact absurd h (by simp)

theorem step_of_run {s u : State} {i : Instr} (h : fetchNext s = .run i u) : step s = exec i u := by
  simp [step, h]

theorem step_of_settled {s u : State} (h : fetchNext s = .settled u) : step s = .next u := by
  simp [step, h]

theorem fetchPhase_of_ok {s : State} {i : Instr} (h : decodeUop s.ph = .ok i) : fetchPhase s = .run i s := by
  simp [fetchPhase, h]

theorem fetchPhase_run {s u : State} {i : Instr} (h : fetchPhase s = .run i u) : u = s ∧ decodeUop s.ph = .ok i := by
  unfold fetchPhase at h
  split at h
  · cases h
    exact ⟨rfl, ‹_›⟩
  · cases h

/-- The step in which the host writes `CMD` (40 R120). -/
theorem step_cmd {s : State} {rest : List HostEvent} {w : Reg32}
    (h : s.script = .txn (.regWrite .w32 0x00 w) :: rest) :
    step s = match decodeCmd w with
      | .ok i => exec i { s with script := rest, replies := .written :: s.replies }
      | .error _ =>
        .next (({ s with script := rest, replies := .written :: s.replies } : State).accept
          State.raiseIllegalCommand) := by
  unfold step
  rw [fetchNext_txn h, hostTxn_cmd, fetchCommand]
  cases decodeCmd w <;> rfl

/-- All that a transaction other than a write of `CMD` and reset can do: it settles; it can write `NUMPIX` and the
four byte memories, but not while `BUSY = 1`, and then within their sizes; it hands out replies and free values. -/
theorem hostTxn_cases {s : State} {x : Txn} (hc : ∀ w, x ≠ .regWrite .w32 0x00 w) (hr : x ≠ .resetInput) :
    ∃ numpix replies fresh src img pal dst,
      hostTxn x s = .settled { s with numpix := numpix, replies := replies, fresh := fresh, src := src, img := img,
                                      pal := pal, dst := dst } ∧
      (s.status.busy = true → numpix = s.numpix ∧ src = s.src ∧ img = s.img ∧ pal = s.pal ∧ dst = s.dst) ∧
      (s.src.Ok (memSize .src) → src.Ok (memSize .src)) ∧ (s.img.Ok (memSize .img) → img.Ok (memSize .img)) ∧
      (s.pal.Ok (memSize .pal) → pal.Ok (memSize .pal)) ∧ (s.dst.Ok (memSize .dst) → dst.Ok (memSize .dst)) := by
  cases x with
  | regRead width off =>
    simp only [hostTxn, hostRegRead]
    split_ifs <;> exact ⟨_, _, _, _, _, _, _, rfl, fun _ => ⟨rfl, rfl, rfl, rfl, rfl⟩, id, id, id, id⟩
  | regWrite width off w =>
    simp only [hostTxn, hostRegWrite]
    split_ifs with h1 h2
    · exact ⟨_, _, _, _, _, _, _, rfl, fun _ => ⟨rfl, rfl, rfl, rfl, rfl⟩, id, id, id, id⟩
    · exact ⟨_, _, _, _, _, _, _, rfl, fun _ => ⟨rfl, rfl, rfl, rfl, rfl⟩, id, id, id, id⟩
    · cases hreg : regAt off with
      | cmd =>
        have ho : off = 0 := by
          unfold regAt at hreg
          split_ifs at hreg
          assumption
        have hw : width = .w32 := by cases width <;> first | rfl | exact absurd rfl h2
        exact absurd (by rw [ho, hw]) (hc w)
      | numpix =>
        unfold State.writeNumpix
        by_cases hb : s.status.busy = true
        · exact ⟨_, _, _, _, _, _, _, by simp [hb]; rfl, fun _ => ⟨rfl, rfl, rfl, rfl, rfl⟩, id, id, id, id⟩
        · exact ⟨w, .written :: s.replies, s.fresh, s.src, s.img, s.pal, s.dst, by simp [hb, State.reply],
            fun h => absurd h hb, id, id, id, id⟩
      | _ => exact ⟨_, _, _, _, _, _, _, rfl, fun _ => ⟨rfl, rfl, rfl, rfl, rfl⟩, id, id, id, id⟩
  | memRead m width a =>
    simp only [hostTxn, hostMemRead]
    split_ifs <;> exact ⟨_, _, _, _, _, _, _, rfl, fun _ => ⟨rfl, rfl, rfl, rfl, rfl⟩, id, id, id, id⟩
  | memWrite m width a v =>
    simp only [hostTxn, hostMemWrite]
    split_ifs with h1 hb
    · exact ⟨_, _, _, _, _, _, _, rfl, fun _ => ⟨rfl, rfl, rfl, rfl, rfl⟩, id, id, id, id⟩
    · exact ⟨_, _, _, _, _, _, _, rfl, fun _ => ⟨rfl, rfl, rfl, rfl, rfl⟩, id, id, id, id⟩
    · have ha : a < memSize m := by
        have : memAccessOk m width a = true := by simpa using h1
        simp only [memAccessOk, Bool.and_eq_true, decide_eq_true_eq] at this
        exact this.2
      cases m
      · exact ⟨_, _, _, _, _, _, _, rfl, fun h => absurd h hb, fun h => Memory.put_ok _ h ha, id, id, id⟩
      · exact ⟨_, _, _, _, _, _, _, rfl, fun h => absurd h hb, id, fun h => Memory.put_ok _ h ha, id, id⟩
      · exact ⟨_, _, _, _, _, _, _, rfl, fun h => absurd h hb, id, id, fun h => Memory.put_ok _ h ha, id⟩
      · exact ⟨_, _, _, _, _, _, _, rfl, fun h => absurd h hb, id, id, id, fun h => Memory.put_ok _ h ha⟩
  | wrkAccess =>
    exact ⟨_, _, _, _, _, _, _, rfl, fun _ => ⟨rfl, rfl, rfl, rfl, rfl⟩, id, id, id, id⟩
  | resetInput => exact absurd rfl hr

/-- A run of one step and then `k`. -/
theorem run_succ_of_next {s t : State} (k : Nat) (h : step s = .next t) :
    Host.Core.run Sys2Proof.core (k + 1) s = Host.Core.run Sys2Proof.core k t := by
  have h' : Sys2Proof.core.step s = .next t := h
  simp only [Host.Core.run, h']

/-- A run of `j` steps and then `k`. -/
theorem run_add {j k : Nat} {s t : State} (h : Host.Core.run Sys2Proof.core j s = .next t) :
    Host.Core.run Sys2Proof.core (j + k) s = Host.Core.run Sys2Proof.core k t := by
  induction j generalizing s with
  | zero =>
    have : s = t := by injection h
    rw [this, Nat.zero_add]
  | succ j ih =>
    rw [show j + 1 + k = j + k + 1 by omega]
    simp only [Host.Core.run] at h ⊢
    split at h
    · exact ih h
    · cases h
    · cases h

end Sys2Proof.Machine
end

