-- ==== Sys2Proof/Tests/Slice0.lean ====
section
/-! SUPPORT. Tests on single steps, from the worked vectors and examples of spec/ ("V" numbers are those of
95_test_vectors.md), and after them a witness for the hypotheses of each statement. -/

namespace Sys2Proof.Tests

open Sys2Proof Sys2Proof.Machine

/-! ## Small states -/

/-- The reset state with `NUMPIX = n`. -/
def st (n : Nat) : State := { State.reset with numpix := BitVec.ofNat 32 n }

/-- A byte memory written from address 0 on. -/
def bytes (l : List Nat) : Memory Byte := l.zipIdx.map fun p => (p.2, BitVec.ofNat 8 p.1)

/-- A working entry. -/
def entry (r g b l : Nat) : WrkEntry :=
  ⟨⟨BitVec.ofNat 8 r, BitVec.ofNat 8 g, BitVec.ofNat 8 b⟩, BitVec.ofNat 4 l⟩

/-- A working store written from entry 0 on. -/
def entries (l : List WrkEntry) : Memory WrkEntry := l.zipIdx.map fun p => (p.2, p.1)

/-- A colour. -/
def rgb (r g b : Nat) : Rgb := ⟨BitVec.ofNat 8 r, BitVec.ofNat 8 g, BitVec.ofNat 8 b⟩

/-- The answer is a next state of which `p` holds. -/
def nextIs (o : Answer) (p : State → Bool) : Bool :=
  match o with
  | .next t => p t
  | .fault _ => false
  | .refused _ => false

/-- A state with `BUSY = 1` in phase `c`, for `QUANTIZE` of two pixels. -/
def busyAt (c : PhCode) : State :=
  { st 2 with status := ⟨true, false, false, 0, 0⟩, op := 1, ph := c }

/-- The state when the host's next transaction is `x`. -/
def withTxn (s : State) (x : Txn) : State := { s with script := [.txn x] }

/-! ## Decoding: every encoding written out bit by bit (30 R93, R100) -/

theorem test_decode_nop : decodeCmd 0b00000000000000000000000000000000#32 = .ok .nop := by decide
theorem test_decode_quantize : decodeCmd 0b00000000000000000000000000000001#32 = .ok .quantize := by decide
theorem test_decode_render : decodeCmd 0b00000000000000000000000000000010#32 = .ok .render := by decide
theorem test_decode_idle : decodeUop 0b00000#5 = .ok .idle := by decide
theorem test_decode_argchk : decodeUop 0b00001#5 = .ok .argchk := by decide
theorem test_decode_copy : decodeUop 0b00010#5 = .ok .copy := by decide
theorem test_decode_seed : decodeUop 0b00011#5 = .ok .seed := by decide
theorem test_decode_clrcent : decodeUop 0b00100#5 = .ok .clrcent := by decide
theorem test_decode_clracc : decodeUop 0b00101#5 = .ok .clracc := by decide
theorem test_decode_accum : decodeUop 0b00110#5 = .ok .accum := by decide
theorem test_decode_mean : decodeUop 0b00111#5 = .ok .mean := by decide
theorem test_decode_assign : decodeUop 0b01000#5 = .ok .assign := by decide
theorem test_decode_roundend : decodeUop 0b01001#5 = .ok .roundend := by decide
theorem test_decode_palout : decodeUop 0b01010#5 = .ok .palout := by decide
theorem test_decode_pack : decodeUop 0b01011#5 = .ok .pack := by decide
theorem test_decode_luma : decodeUop 0b01100#5 = .ok .luma := by decide
theorem test_decode_darkest : decodeUop 0b01101#5 = .ok .darkest := by decide
theorem test_decode_blackswap : decodeUop 0b01110#5 = .ok .blackswap := by decide
theorem test_decode_lutgen : decodeUop 0b01111#5 = .ok .lutgen := by decide
theorem test_decode_relabel : decodeUop 0b10000#5 = .ok .relabel := by decide
theorem test_decode_expand : decodeUop 0b10001#5 = .ok .expand := by decide
theorem test_decode_finish : decodeUop 0b10010#5 = .ok .finish := by decide

/-- 30 R101, V6 to V9. -/
theorem test_decode_illegal :
    decodeCmd 0x00000003#32 = .error .illegalCommand ∧ decodeCmd 0x00000101#32 = .error .illegalCommand ∧
    decodeCmd 0x80000001#32 = .error .illegalCommand ∧ decodeCmd 0x000000FF#32 = .error .illegalCommand := by decide

/-- 30 R100: codes 0x13 and 0x1F are reserved. -/
theorem test_decode_reserved :
    decodeUop 0b10011#5 = .error .reservedPhase ∧ decodeUop 0b11111#5 = .error .reservedPhase := by decide

theorem test_decodeTableWord :
    decodeTableWord 32 1 = some .quantize ∧ decodeTableWord 5 0x11 = some .expand ∧
    decodeTableWord 8 0x0F = some .lutgen ∧ decodeTableWord 32 3 = none ∧ decodeTableWord 8 0x13 = none ∧
    decodeTableWord 8 0x20 = none := by decide

/-! ## Well-formedness: no instruction has an operand (30 R94); ill-formed host accesses are refused (20 R63, R64) -/

theorem test_wf_instr : (Instr.nop).wf = true ∧ (Instr.expand).wf = true := by decide

theorem test_illformed_width : regAccessOk .w16 0x08 = false ∧ regAccessOk .w8 0x04 = false := by decide

theorem test_illformed_alignment : regAccessOk .w32 0x0A = false ∧ regAccessOk .w32 0x08 = true := by decide

theorem test_illformed_memWidth : memAccessOk .pal .w16 0 = false ∧ memAccessOk .pal .w32 0 = false := by decide

theorem test_illformed_memRange : memAccessOk .pal .w8 48 = false ∧ memAccessOk .pal .w8 47 = true := by decide

theorem test_illformed_wrk :
    nextIs (step (withTxn State.reset .wrkAccess)) (fun t => t.replies == [.refused]) = true := by decide

/-! ## Commands and control (40) -/

/-- V10. -/
theorem test_nop_clears_error :
    nextIs (exec .nop { st 7 with status := ⟨false, false, true, 1, 1⟩ }) (fun t => t.statusWord == 2) = true := by
  decide

/-- V11: by a write of `CMD` in the reset state. -/
theorem test_nop_from_reset :
    nextIs (step (withTxn State.reset (.regWrite .w32 0 0))) (fun t => t.statusWord == 2) = true := by decide

/-- The example of 40 R120: from `DONE` to `BUSY` with `PHASE = 1`. -/
theorem test_quantize_accepted :
    nextIs (step (withTxn { st 2 with status := ⟨false, true, false, 0, 0⟩ } (.regWrite .w32 0 1)))
      (fun t => t.statusWord == 0x1001 && t.op == 1) = true := by decide

/-- V11a: `RENDER` written in phase `ACCUM` is dropped. -/
theorem test_render_dropped :
    nextIs (step (withTxn (busyAt 6) (.regWrite .w32 0 2)))
      (fun t => t.statusWord == 0x6001 && t.op == 1) = true := by decide

theorem test_render_accepted :
    nextIs (exec .render (st 2)) (fun t => t.statusWord == 0x1001 && t.op == 2) = true := by decide

/-- V6, V8. -/
theorem test_illegal_rejected :
    nextIs (step (withTxn (st 2) (.regWrite .w32 0 3))) (fun t => t.statusWord == 0x24) = true ∧
    nextIs (step (withTxn (st 2) (.regWrite .w32 0 0x80000001))) (fun t => t.statusWord == 0x24) = true := by decide

theorem test_idle_waits : step State.reset = .next State.reset := rfl

/-- V1. -/
theorem test_argchk_empty :
    nextIs (step { busyAt 1 with numpix := 0 }) (fun t => t.statusWord == 0x114) = true := by decide

/-- V5. -/
theorem test_argchk_odd :
    nextIs (exec .argchk { busyAt 1 with numpix := 0xFFFFFFFF }) (fun t => t.statusWord == 0x214) = true := by decide

/-- V3, V4, with `MAXPIX = 16`. -/
theorem test_argchk_order :
    argError 16 18 = some 3 ∧ argError 16 19 = some 2 ∧ argError 16 16 = none ∧ argError 16 2 = none := by decide

/-- The example of 40 R127. -/
theorem test_finish : nextIs (exec .finish (busyAt 0x12)) (fun t => t.statusWord == 2) = true := by decide

/-! ## k-means (41) -/

/-- The example of 41 R141. -/
theorem test_copy :
    let s := { st 1 with src := bytes [0x0A, 0x14, 0x1E, 0x7F] }
    (s.wrkIn (s.copyWrk 1) 0).rgb = rgb 10 20 30 := by decide

/-- The example of 41 R142. -/
theorem test_seed :
    let s := { st 2 with draws := [3, 7] }
    (s.wrkIn (s.seedWrk 2) 0).l = 3 ∧ (s.wrkIn (s.seedWrk 2) 1).l = 7 := by decide

/-- The example of 41 R143. -/
theorem test_clrcent :
    nextIs (exec .clrcent { st 2 with cent := Vector.replicate 16 (rgb 1 2 3) })
      (fun t => fileGet t.cent 5 == rgb 0 0 0) = true := by decide

/-- The example of 41 R144. -/
theorem test_clracc :
    nextIs (exec .clracc { st 2 with acc := Vector.replicate 16 ⟨1, 2, 3, 4⟩ })
      (fun t => fileGet t.acc 2 == ⟨0, 0, 0, 0⟩) = true := by decide

/-- The example of 41 R145. -/
theorem test_accum :
    fileGet ({ st 2 with wrk := entries [entry 255 0 0 2, entry 0 0 255 2] }.accumAcc 2) 2 = ⟨255, 0, 255, 2⟩ := by
  decide

/-- V27a, V27c, V27i. -/
theorem test_mean8 : mean8 766 6 = 127 ∧ mean8 509 2 = 254 ∧ mean8 4278190080 16777216 = 255 := by decide

/-- The example of 41 R149; cluster 4 is empty and keeps its centroid. -/
theorem test_mean :
    nextIs (exec .mean { st 2 with
        acc := fileSet (fileSet State.reset.acc 2 ⟨255, 0, 255, 2⟩) 9 ⟨260, 10, 245, 2⟩
        cent := fileSet State.reset.cent 4 (rgb 1 2 3) })
      (fun t => fileGet t.cent 2 == rgb 127 0 127 && fileGet t.cent 9 == rgb 130 5 122 &&
        fileGet t.cent 4 == rgb 1 2 3) = true := by decide

/-- V20, V23, V25. -/
theorem test_dist2 :
    dist2 (rgb 0 0 0) (rgb 255 255 255) = 195075 ∧ dist2 (rgb 0 0 0) (rgb 1 0 0) = 1 ∧
    dist2 (rgb 255 0 0) (rgb 130 5 122) = 30534 := by decide

/-- V28a, V28e: the lowest index wins a tie, the last index can win. -/
theorem test_nearest :
    nearest (rgb 10 0 0)
      (fileSet (fileSet (Vector.replicate 16 (rgb 255 255 255)) 0 (rgb 0 0 0)) 1 (rgb 20 0 0)) = 0 ∧
    nearest (rgb 4 4 4) (fileSet (Vector.replicate 16 (rgb 0 0 0)) 15 (rgb 5 5 5)) = 15 := by decide

/-- The example of 41 R152. -/
theorem test_assign :
    let s := { st 1 with wrk := entries [entry 255 0 0 2],
                         cent := fileSet (fileSet State.reset.cent 2 (rgb 127 0 127)) 9 (rgb 130 5 122) }
    (s.assignAll 1).wrk = entries [entry 255 0 0 9] ∧ (s.assignAll 1).changed = true := by decide

/-- V29c, V29d: the cap, and convergence in round 24. -/
theorem test_roundend_cap :
    nextIs (exec .roundend { st 2 with iter := ⟨23, false⟩, changed := true })
      (fun t => t.iterWord == 0x18 && t.ph == 0x0A) = true ∧
    nextIs (exec .roundend { st 2 with iter := ⟨23, false⟩, changed := false })
      (fun t => t.iterWord == 0x118 && t.ph == 0x0A) = true := by decide

/-- V29e. -/
theorem test_roundend_again :
    nextIs (exec .roundend { st 2 with iter := ⟨22, false⟩, changed := true })
      (fun t => t.iterWord == 0x17 && t.ph == 0x05) = true := by decide

/-! ## Palette and packing (42) -/

/-- V38, the first twelve bytes. -/
theorem test_palout :
    nextIs (exec .palout { st 2 with
        cent := fileSet (fileSet (fileSet State.reset.cent 0 (rgb 1 2 3)) 1 (rgb 145 95 71)) 2 (rgb 1 252 3) })
      (fun t => t.pal.take 12 == bytes [1, 2, 3, 0x91, 0x5F, 0x47, 1, 0xFC, 3, 0, 0, 0] && t.pal.length == 48) = true := by
  decide

/-- V36. -/
theorem test_pack :
    { st 6 with img := bytes [0xAA, 0xBB, 0xCC, 0xDD],
                wrk := entries [entry 0 0 0 3, entry 0 0 0 7, entry 0 0 0 15, entry 0 0 0 0, entry 0 0 0 1,
                                entry 0 0 0 14] }.packImg 6 = bytes [0x37, 0xF0, 0x1E, 0xDD] := by decide

/-- V31, V32, V33. -/
theorem test_setnib : setnib 0xFF 0 0xA = 0xAF ∧ setnib 0xFF 1 0x3 = 0xF3 ∧ setnib 0x5C 6 0x0 = 0x0C := by decide

/-- V35. -/
theorem test_getnib :
    let M := { st 6 with img := bytes [0x37, 0xF0, 0x1E] }.memRead .img
    getnib M 0 = 3 ∧ getnib M 1 = 7 ∧ getnib M 2 = 15 ∧ getnib M 3 = 0 ∧ getnib M 5 = 14 := by decide

/-! ## Darkest colour to slot 0 (43) -/

/-- V40l, V40b. -/
theorem test_luma1000 :
    luma1000 (rgb 0 31 0) = 18197 ∧ luma1000 (rgb 1 0 157) = 18197 ∧ luma1000 (rgb 255 255 255) = 255000 := by decide

/-- The example of 43 R187, with every entry written. -/
theorem test_luma :
    nextIs (exec .luma { st 2 with pal := bytes (List.replicate 9 0 ++ [0x0A, 0x0A, 0x0A] ++ List.replicate 36 0) })
      (fun t => fileGet t.lum 3 == 10000 && fileGet t.lum 15 == 0) = true := by decide

/-- V41a, V41d. -/
theorem test_darkest :
    nextIs (exec .darkest { st 2 with
        lum := fileSet (fileSet (fileSet (Vector.replicate 16 0) 0 1815) 1 107214) 2 148565 })
      (fun t => t.dark == 3) = true ∧
    nextIs (exec .darkest { st 2 with lum := fileSet (Vector.replicate 16 255000) 15 254999 })
      (fun t => t.dark == 15) = true := by decide

/-- As V42d, with `d = 1`: the darkest colour is lost and entry 0 moves. -/
theorem test_blackswap :
    nextIs (exec .blackswap { st 2 with dark := 1, pal := bytes [90, 91, 92, 20, 30, 40, 5, 6, 7] })
      (fun t => t.pal == bytes [0, 0, 0, 90, 91, 92, 5, 6, 7]) = true := by decide

/-- V42c: entry 0 is the darkest. -/
theorem test_blackswap_zero :
    nextIs (exec .blackswap { st 2 with dark := 0, pal := bytes [100, 150, 200, 250, 251, 252] })
      (fun t => t.pal == bytes [0, 0, 0, 250, 251, 252]) = true := by decide

/-- V45, V46. -/
theorem test_lutbyte :
    lutbyte 5 0x05 = 0x50 ∧ lutbyte 5 0x00 = 0x55 ∧ lutbyte 5 0xF5 = 0xF0 ∧ lutbyte 15 0x3F = 0x30 := by decide

/-- The example of 43 R194. -/
theorem test_lutgen :
    nextIs (exec .lutgen { st 2 with dark := 3 })
      (fun t => t.lutAt 0x00 == 0x33 && t.lutAt 0x11 == 0x11 && t.lutAt 0x30 == 0x03) = true := by decide +kernel

/-- V48. -/
theorem test_relabel :
    { st 4 with
        img := bytes [0x00, 0x30, 0x00, 0x30]
        lut := ((Vector.replicate 256 0xEE).set 0x00 0x33).set 0x30 0x03 }.relabelImg 4 =
      bytes [0x33, 0x03, 0x00, 0x30] := by decide

/-! ## Renderer (44) -/

/-- V53: the largest index and the largest palette address. -/
theorem test_expand :
    { st 2 with img := bytes [0xFF], pal := [(45, 1), (46, 2), (47, 3)] }.expandDst 2 =
      bytes [1, 2, 3, 0xFF, 1, 2, 3, 0xFF] := by decide

/-- V52. -/
theorem test_expand_example :
    { st 2 with img := bytes [0x37],
                pal := [(9, 0x0A), (10, 0x0A), (11, 0x0A), (21, 0xC8), (22, 0xC8), (23, 0xC8)] }.expandDst 2 =
      bytes [0x0A, 0x0A, 0x0A, 0xFF, 0xC8, 0xC8, 0xC8, 0xFF] := by decide

/-! ## The host's port (10, 20) and the step -/

/-- V11b. -/
theorem test_numpix_busy :
    nextIs (step (withTxn { busyAt 6 with numpix := 8 } (.regWrite .w32 8 4))) (fun t => t.numpix == 8) = true := by
  decide

/-- V11c. -/
theorem test_readOnly :
    nextIs (step (withTxn (st 2) (.regWrite .w32 4 0xFFFFFFFF)))
      (fun t => t.statusWord == 0 && t.ph == 0 && t.replies == [.written]) = true := by decide

/-- V11d. -/
theorem test_reserved_reads_zero :
    nextIs (step (withTxn (st 2) (.regRead .w32 0x18))) (fun t => t.replies == [.word 0]) = true := by decide

/-- The fields of `STATUS` at their bits (10 R23): `STATUS = 0x00006001` of V11a. -/
theorem test_status_read :
    nextIs (step (withTxn (busyAt 6) (.regRead .w32 4))) (fun t => t.replies == [.word 0x6001]) = true := by decide

/-- 20 R64, R65: a byte write is performed with `BUSY = 0` and dropped with `BUSY = 1`. -/
theorem test_palette_write :
    nextIs (step (withTxn (st 2) (.memWrite .pal .w8 47 9))) (fun t => t.pal == [(47, 9)]) = true ∧
    nextIs (step (withTxn (busyAt 6) (.memWrite .pal .w8 47 9))) (fun t => t.pal == []) = true := by decide

/-- 30 R105: `WAIT` with `BUSY = 1` polls, lets the engine move and polls again. -/
theorem test_wait :
    nextIs (step { busyAt 0x12 with script := [.wait] }) (fun t => t.script == [.engine, .wait]) = true := by decide

/-- 70 R245, R246: reset in an idle state. -/
theorem test_reset_idle :
    nextIs (step (withTxn { st 7 with dark := 3, status := ⟨false, true, false, 0, 0⟩ } .resetInput))
      (fun t => t.statusWord == 0 && t.numpix == 0 && t.darkWord == 0) = true := by decide

/-- 40 R124: the engine's turn runs the phase of `PH`. -/
theorem test_step_runs_phase :
    nextIs (step (busyAt 0x0D)) (fun t => t.ph == 0x0E && t.statusWord == 0xE001) = true := by decide

/-- A written memory keeps its order, and a second write replaces. -/
theorem test_memory_put : Memory.put (Memory.put (Memory.put ([] : Memory Byte) 5 1) 2 7) 5 9 = [(2, 7), (5, 9)] := by decide

/-- The placed instruction is the next one run. -/
theorem test_withFetchWord :
    nextIs (step (State.reset.withFetchWord 32 1)) (fun t => t.statusWord == 0x1001) = true ∧
    nextIs (step (State.reset.withFetchWord 8 0x0D)) (fun t => t.ph == 0x0E) = true := by decide

/-! ## Witnesses: for each statement with hypotheses, a state and operands that meet them

Each is named after its statement. A statement with several clauses has a witness for each, at the values where
clauses meet. -/

/-- Two pixels fit every legal `MAXPIX`. -/
theorem two_fits : (st 2).numpix.toNat ≤ Config.maxPix := maxPix_bounds.1

/-- Two pixels are a legal image. -/
theorem two_legal : LegalNumpix (st 2).numpix.toNat := ⟨by decide, maxPix_bounds.1, by decide⟩

/-- `MAXPIX` pixels are a legal image, the largest. -/
theorem maxPix_legal : LegalNumpix (st Config.maxPix).numpix.toNat := by
  have h := maxPix_bounds
  have e : (st Config.maxPix).numpix.toNat = Config.maxPix := by
    show (BitVec.ofNat 32 Config.maxPix).toNat = _
    rw [BitVec.toNat_ofNat]
    omega
  rw [e]
  exact ⟨h.1, Nat.le_refl _, h.2.2⟩

theorem witness_EngineTurnRunsThePhaseOfPH :
    (decodeUop (busyAt 6).ph = .ok .accum ∧ (busyAt 6).script = []) ∧
    (decodeUop (busyAt 0x12).ph = .ok .finish ∧
      { busyAt 0x12 with script := [.engine, .wait] }.script = .engine :: [.wait]) := by decide

theorem witness_CommandWriteRunsTheCommand :
    (withTxn (st 2) (.regWrite .w32 0x00 1)).script = .txn (.regWrite .w32 0x00 1) :: [] ∧
    decodeCmd 1 = .ok .quantize := by decide

/-- The words on both sides of each boundary: 2 is a command, 3 is not; 0x100 has a bit in `[31:8]`. -/
theorem witness_CommandWriteFollowsTheAcceptanceRule :
    (withTxn (busyAt 6) (.regWrite .w32 0x00 1)).script = .txn (.regWrite .w32 0x00 1) :: [] ∧
    (busyAt 6).status.busy = true ∧ (st 2).status.busy = false ∧
    IllegalWord 3 ∧ IllegalWord 0x100 ∧ ¬ IllegalWord 0 ∧ ¬ IllegalWord 1 ∧ ¬ IllegalWord 2 := by
  unfold IllegalWord
  decide

theorem witness_NopClearsTheResultAndSetsDone :
    { st 7 with status := ⟨false, false, true, 1, 1⟩ }.status.busy = false := by decide

theorem witness_QuantizeAndRenderStartTheSequencer :
    { st 2 with status := ⟨false, true, false, 0, 0⟩ }.status.busy = false := by decide

theorem witness_CommandsAreIgnoredWhileBusy : (busyAt 6).status.busy = true := by decide

/-- Zero; the least and the greatest odd value; the least even value above `MAXPIX`; 2 and `MAXPIX`, with both
values of `OP`. -/
theorem witness_ArgchkTestsZeroOddTooLargeInOrder :
    ((st 0).numpix.toNat = 0) ∧ ((st 1).numpix.toNat % 2 = 1) ∧ ((st 4294967295).numpix.toNat % 2 = 1) ∧
    (∃ n, n = (st (Config.maxPix + 2)).numpix.toNat ∧ n ≠ 0 ∧ n % 2 = 0 ∧ Config.maxPix < n) ∧
    (LegalNumpix (st 2).numpix.toNat ∧ { st 2 with op := 1 }.op = 1) ∧
    (LegalNumpix (st Config.maxPix).numpix.toNat ∧ { st Config.maxPix with op := 2 }.op = 2) := by
  have h := maxPix_bounds
  refine ⟨by decide, by decide, by decide, ⟨_, rfl, ?_⟩, ⟨two_legal, rfl⟩, maxPix_legal, rfl⟩
  have e : (st (Config.maxPix + 2)).numpix.toNat = Config.maxPix + 2 := by
    show (BitVec.ofNat 32 (Config.maxPix + 2)).toNat = _
    rw [BitVec.toNat_ofNat]
    omega
  rw [e]
  omega

theorem witness_ArgchkTakesTheElseBranchForAnyOtherOp :
    LegalNumpix (st 2).numpix.toNat ∧ (st 2).op ≠ 1 ∧ (st 2).op ≠ 2 := ⟨two_legal, by decide, by decide⟩

theorem witness_RejectedCommandWritesNoOutput :
    (st 7).status.busy = false ∧ (st 7).ph = PhaseCode.idle ∧ (st 7).script = [] ∧
    ¬ LegalNumpix (st 7).numpix.toNat ∧
    (Instr.render, (2 : BitVec 2)) ∈ [(Instr.quantize, (1 : BitVec 2)), (.render, 2)] := by
  refine ⟨rfl, rfl, rfl, fun h => ?_, by decide⟩
  exact absurd h.2.2 (by decide)

/-- The hypothesis of the statements about COPY, SEED, ACCUM, ASSIGN, PACK, RELABEL and EXPAND, at 0, at 2 and at the
largest legal number of pixels; a pixel index below it and one at it. -/
theorem witness_CopyCopiesColoursIntoWrk :
    (st 0).numpix.toNat ≤ Config.maxPix ∧ (st 2).numpix.toNat ≤ Config.maxPix ∧
    (st Config.maxPix).numpix.toNat ≤ Config.maxPix ∧ 1 < (st 2).numpix.toNat ∧ (st 2).numpix.toNat ≤ 2 :=
  ⟨Nat.zero_le _, two_fits, maxPix_legal.2.1, by decide, by decide⟩

theorem witness_SeedLabelsPixelsWithDrawsAndClearsIter :
    (st 2).numpix.toNat ≤ Config.maxPix ∧ 1 < (st 2).numpix.toNat ∧ { st 2 with draws := [3, 7] }.draws[1]? = some 7 :=
  ⟨two_fits, by decide, by decide⟩

theorem witness_AccumAddsEachPixelToItsCluster : (st 2).numpix.toNat ≤ Config.maxPix := two_fits

theorem witness_AccumulatorsHoldExactSums :
    (st 2).numpix.toNat ≤ Config.maxPix ∧
    exec .clracc (st 2) = .next ({ st 2 with acc := Vector.replicate 16 Acc.zero }.goto PhaseCode.accum) :=
  ⟨two_fits, rfl⟩

/-- An empty cluster; a cluster with members, with the largest sum its count allows. -/
theorem witness_MeanFloorsAndKeepsEmptyClusters :
    (fileGet { st 2 with acc := Vector.replicate 16 Acc.zero }.acc 3).cnt = 0 ∧
    (let a := fileGet { st 2 with acc := Vector.replicate 16 ⟨510, 1, 0, 2⟩ }.acc 3
     a.cnt ≠ 0 ∧ a.sr.toNat ≤ 255 * a.cnt.toNat ∧ a.sg.toNat ≤ 255 * a.cnt.toNat ∧
      a.sb.toNat ≤ 255 * a.cnt.toNat) := by decide

theorem witness_AssignMovesPixelsToTheNearestCentroid :
    (st 2).numpix.toNat ≤ Config.maxPix ∧ 1 < (st 2).numpix.toNat ∧ (st 2).numpix.toNat ≤ 2 :=
  ⟨two_fits, by decide, by decide⟩

/-- Convergence; round 24 with a change; round 23 with a change. -/
theorem witness_RoundendCountsAndLoopsOrLeaves :
    { st 2 with changed := false }.changed = false ∧
    ({ st 2 with changed := true, iter := ⟨23, false⟩ }.changed = true ∧
      ({ st 2 with changed := true, iter := ⟨23, false⟩ }).iter.rounds + 1 = 24) ∧
    ({ st 2 with changed := true, iter := ⟨22, false⟩ }.changed = true ∧
      ({ st 2 with changed := true, iter := ⟨22, false⟩ }).iter.rounds + 1 ≠ 24) := by decide

theorem witness_FourPhasesComputeOneRound :
    (busyAt 5).numpix.toNat ≤ Config.maxPix ∧ (busyAt 5).ph = PhaseCode.clracc ∧ (busyAt 5).script = [] :=
  ⟨two_fits, rfl, rfl⟩

theorem witness_PackWritesTwoLabelsPerByte :
    (st 2).numpix.toNat ≤ Config.maxPix ∧ 0 < (st 2).numpix.toNat / 2 ∧ (st 2).numpix.toNat / 2 ≤ 1 :=
  ⟨two_fits, by decide, by decide⟩

/-- A memory with one nibble replaced, and the other pixel of the same byte. -/
theorem witness_NibblePrimitivesReadBackWhatTheyPack :
    (∀ a, (fun x => if x = 5 / 2 then setnib (0xFF : Byte) 5 3 else 0xFF) a =
      if a = 5 / 2 then setnib ((fun _ => 0xFF : Nat → Byte) a) 5 3 else (fun _ => 0xFF : Nat → Byte) a) ∧
    4 ≠ 5 := ⟨fun _ => rfl, by decide⟩

theorem witness_PackedIndexIsTheLabel :
    (st 2).numpix.toNat ≤ Config.maxPix ∧ (st 2).numpix.toNat % 2 = 0 ∧
    (∃ t, exec .pack (st 2) = .next t) ∧ 1 < (st 2).numpix.toNat :=
  ⟨two_fits, by decide, ⟨_, exec_pack two_fits⟩, by decide⟩

/-- `d` not 0, an entry that is neither, the last channel, the first address beyond the palette. -/
theorem witness_BlackswapMovesBlackToSlotZero :
    { st 2 with dark := 15 }.dark ≠ 0 ∧ (14 : Label) ≠ 0 ∧ 14 ≠ { st 2 with dark := 15 }.dark ∧ 2 < 3 ∧ 48 ≤ 48 := by
  decide

theorem witness_SwapidxAndLutbyteExchangeTwoIndices : (7 : Label) ≠ 0 ∧ (7 : Label) ≠ 5 := by decide

theorem witness_RelabelMapsEveryByteThroughTheTable :
    (st 2).numpix.toNat ≤ Config.maxPix ∧ 0 < (st 2).numpix.toNat / 2 ∧ (st 2).numpix.toNat / 2 ≤ 1 :=
  ⟨two_fits, by decide, by decide⟩

theorem witness_RelabelExchangesIndicesOfEveryPixel :
    (st 2).numpix.toNat ≤ Config.maxPix ∧ (st 2).numpix.toNat % 2 = 0 ∧ (∃ a, exec .lutgen (st 2) = .next a) ∧
    1 < (st 2).numpix.toNat := ⟨two_fits, by decide, ⟨_, exec_lutgen _⟩, by decide⟩

theorem witness_ExpandLooksUpEveryPixelWithAlpha255 :
    (st 2).numpix.toNat ≤ Config.maxPix ∧ 1 < (st 2).numpix.toNat ∧ 2 < 3 ∧ 4 * (st 2).numpix.toNat ≤ 8 :=
  ⟨two_fits, by decide, by decide, by decide⟩

theorem witness_PhasesFollowThePhaseGraph :
    (Instr.luma).format = .uop ∧ encode .luma = .uop (busyAt 0x0C).ph ∧ ∃ t, exec .luma (busyAt 0x0C) = .next t :=
  ⟨rfl, rfl, _, exec_luma _⟩

theorem witness_EachMemoryIsWrittenOnlyByItsPhases :
    (∃ t, exec .copy (st 2) = .next t) ∧ ∃ t, exec .quantize (st 2) = .next t :=
  ⟨⟨_, exec_copy two_fits⟩, _, exec_quantize _⟩

theorem witness_EachRegisterIsWrittenOnlyByItsInstructions :
    (∃ t, exec .mean (st 2) = .next t) ∧ (∃ t, exec .nop (st 2) = .next t) ∧
    ∃ t, exec .finish (busyAt 0x12) = .next t :=
  ⟨⟨_, exec_mean _⟩, ⟨_, exec_nop _⟩, _, exec_finish _⟩

theorem witness_StatusIterDarkReadsReturnTheirFields :
    (withTxn (busyAt 6) (.regRead .w32 0x04)).script = .txn (.regRead .w32 0x04) :: [] ∧
    (withTxn (busyAt 6) (.regRead .w32 0x0C)).script = .txn (.regRead .w32 0x0C) :: [] ∧
    (withTxn (busyAt 6) (.regRead .w32 0x10)).script = .txn (.regRead .w32 0x10) :: [] := by decide

theorem witness_NumpixIsWrittenOnlyWhileIdleAndReadsBack :
    ((withTxn (st 2) (.regWrite .w32 0x08 0xFFFFFFFF)).script = .txn (.regWrite .w32 0x08 0xFFFFFFFF) :: [] ∧
      (withTxn (st 2) (.regWrite .w32 0x08 0xFFFFFFFF)).status.busy = false) ∧
    ((withTxn (busyAt 6) (.regWrite .w32 0x08 4)).script = .txn (.regWrite .w32 0x08 4) :: [] ∧
      (withTxn (busyAt 6) (.regWrite .w32 0x08 4)).status.busy = true) ∧
    (withTxn (busyAt 6) (.regRead .w32 0x08)).script = .txn (.regRead .w32 0x08) :: [] := by decide

theorem witness_ReadOnlyAndReservedWordsIgnoreWrites :
    (0x1C ∈ [0x00, 0x14, 0x18, 0x1C] ∧
      (withTxn (st 2) (.regRead .w32 0x1C)).script = .txn (.regRead .w32 0x1C) :: []) ∧
    (0x04 ∈ [0x04, 0x0C, 0x10, 0x14, 0x18, 0x1C] ∧
      (withTxn (st 2) (.regWrite .w32 0x04 1)).script = .txn (.regWrite .w32 0x04 1) :: []) := by decide

/-- A narrow register access, a misaligned one, the first offset outside the block; a wide memory access, the first
address outside a memory; `WRK`. -/
theorem witness_RefusedAccessesChangeNothing :
    (withTxn (st 2) (.regRead .w16 0x04)).script = .txn (.regRead .w16 0x04) :: [] ∧
    (Width.w16 ≠ .w32 ∨ 0x04 % 4 ≠ 0 ∨ 32 ≤ 0x04) ∧ (Width.w32 ≠ .w32 ∨ 0x0A % 4 ≠ 0 ∨ 32 ≤ 0x0A) ∧
    (Width.w32 ≠ .w32 ∨ 0x20 % 4 ≠ 0 ∨ 32 ≤ 0x20) ∧ (Width.w32 ≠ .w8 ∨ memSize .pal ≤ 0) ∧
    (Width.w8 ≠ .w8 ∨ memSize .pal ≤ 48) ∧ (withTxn (st 2) .wrkAccess).script = .txn .wrkAccess :: [] := by decide

/-- The last byte of `IMG`, and another byte. -/
theorem witness_HostByteWriteStoresThatByteOnly :
    (withTxn (st 2) (.memWrite .img .w8 (memSize .img - 1) 7)).script =
      .txn (.memWrite .img .w8 (memSize .img - 1) 7) :: [] ∧
    (st 2).status.busy = false ∧ memSize .img - 1 < memSize .img ∧ (MemName.pal, 0) ≠ (MemName.img, 0) := by
  have h := maxPix_bounds
  refine ⟨rfl, rfl, ?_, by decide⟩
  rw [memSize_img]
  omega

theorem witness_HostByteReadReturnsTheStoredByte :
    (withTxn (st 2) (.memRead .pal .w8 47)).script = .txn (.memRead .pal .w8 47) :: [] ∧
    (st 2).status.busy = false ∧ 47 < memSize .pal := by decide

theorem witness_HostCannotDisturbARunningCommand :
    (withTxn (busyAt 6) (.memRead .pal .w8 47)).script = .txn (.memRead .pal .w8 47) :: [] ∧
    (busyAt 6).status.busy = true ∧ Txn.memRead .pal .w8 47 ≠ .resetInput ∧ 47 < memSize .pal := by decide

/-- An idle state after a `NOP`, the host polling. -/
def doneState : State := { st 2 with status := ⟨false, true, false, 0, 0⟩, script := [.wait] }

/-- A state with `BUSY = 1` in `ACCUM` meets the invariant. -/
theorem busy_inv : Inv (busyAt 6) where
  oneFlag := by decide
  idle := by decide
  phase := by decide
  noError := by decide
  error := by decide
  rounds := by decide
  loopRounds := by decide
  someRound := by decide
  numpix := fun _ _ => two_legal
  op := by decide
  quantizePhases := by decide
  renderPhase := by decide
  black := fun h => absurd h (by decide)
  src := Memory.nil_ok _
  wrk := Memory.nil_ok _
  img := Memory.nil_ok _
  pal := Memory.nil_ok _
  dst := Memory.nil_ok _

theorem done_inv : Inv doneState where
  oneFlag := by decide
  idle := by decide
  phase := by decide
  noError := by decide
  error := by decide
  rounds := by decide
  loopRounds := by decide
  someRound := by decide
  numpix := fun _ _ => two_legal
  op := by decide
  quantizePhases := by decide
  renderPhase := by decide
  black := fun h => absurd h (by decide)
  src := Memory.nil_ok _
  wrk := Memory.nil_ok _
  img := Memory.nil_ok _
  pal := Memory.nil_ok _
  dst := Memory.nil_ok _

theorem witness_ResultFlagsStayUntilTheNextCommand :
    Inv doneState ∧ doneState.status.busy = false ∧ (∃ t, step doneState = .next t) ∧
    (∀ w rest, doneState.script ≠ .txn (.regWrite .w32 0x00 w) :: rest) ∧
    ∀ rest, doneState.script ≠ .txn .resetInput :: rest :=
  ⟨done_inv, rfl, ⟨_, step_of_settled (fetchNext_wait rfl)⟩, by simp [doneState], by simp [doneState]⟩

theorem witness_SomeFlagStaysSetUntilReset :
    (∃ t, step doneState = .next t) ∧ (∀ rest, doneState.script ≠ .txn .resetInput :: rest) ∧
    (doneState.status.busy || doneState.status.done || doneState.status.err) = true :=
  ⟨⟨_, step_of_settled (fetchNext_wait rfl)⟩, by simp [doneState], rfl⟩

theorem witness_WaitPollsStatusUntilBusyIsZero :
    doneState.script = .wait :: [] ∧ doneState.status.busy = false ∧
    { busyAt 6 with script := [.wait] }.script = .wait :: [] ∧ (busyAt 6).status.busy = true := by decide

/-- Reset in a `QUANTIZE` and in a `RENDER`; the first bytes each leaves alone. -/
theorem witness_ResetInputReturnsToIdleAndKeepsOtherBytes :
    (withTxn (busyAt 6) .resetInput).script = .txn .resetInput :: [] ∧ (busyAt 6).status.busy = true ∧
    (busyAt 6).op = 1 ∧ { busyAt 0x11 with op := 2 }.op = 2 ∧ (busyAt 6).numpix.toNat / 2 ≤ 1 ∧ 48 ≤ 48 ∧
    4 * (busyAt 6).numpix.toNat ≤ 8 := by decide

theorem witness_EveryStepIsTakenAndKeepsTheInvariant : Inv (busyAt 6) := busy_inv

/-- Any scratch: here the centroids and the comparator hold other values than at reset. -/
def usedState : State :=
  { st 2 with status := ⟨false, true, false, 0, 0⟩, cent := Vector.replicate 16 (rgb 9 9 9), best := 3,
              wrk := entries [entry 1 2 3 4], img := [(0, 0x77)], draws := [3, 7] }

theorem witness_QuantizeComputesKmeansAndMovesDarkestToZero :
    usedState.status.busy = false ∧ usedState.script = [] ∧ LegalNumpix usedState.numpix.toNat ∧
    1 < usedState.numpix.toNat ∧ usedState.numpix.toNat / 2 ≤ 1 :=
  ⟨rfl, rfl, two_legal, by decide, by decide⟩

theorem witness_RenderEndsAfterThreeStepsWithTheImage :
    usedState.status.busy = false ∧ usedState.ph = PhaseCode.idle ∧ usedState.script = [] ∧
    LegalNumpix usedState.numpix.toNat ∧ 1 < usedState.numpix.toNat := ⟨rfl, rfl, rfl, two_legal, by decide⟩

/-- Two states that agree on `NUMPIX`, `SRC` and the draws, and on nothing else that a `QUANTIZE` could read. -/
theorem witness_QuantizeLeaksNoEarlierScratch :
    let s := usedState
    let s' := { st 2 with draws := [3, 7] }
    s.status.busy = false ∧ s'.status.busy = false ∧ s.script = [] ∧ s'.script = [] ∧
    LegalNumpix s.numpix.toNat ∧ s'.numpix = s.numpix ∧
    (∀ i c, i < s.numpix.toNat → c < 3 → s'.memRead .src (4 * i + c) = s.memRead .src (4 * i + c)) ∧
    (∀ i, i < s.numpix.toNat → s'.draw i = s.draw i) ∧ s'.cent ≠ s.cent :=
  ⟨rfl, rfl, rfl, rfl, two_legal, rfl, fun _ _ _ _ => rfl, fun _ _ => rfl, by decide⟩

end Sys2Proof.Tests
end

/-! Proofs about the host commands and the control phases (40 R121, R123, R127). -/

namespace Sys2Proof.Machine

/-! ## What `ARGCHK` tests: one equation for each outcome (40 R123) -/

theorem argError_zero (m : Nat) : argError m 0 = some 1 := rfl

theorem argError_of_odd (m : Nat) {n : Nat} (hodd : n % 2 = 1) : argError m n = some 2 := by
  have hn : n ≠ 0 := by omega
  rw [argError, if_neg hn, if_pos hodd]

theorem argError_of_even_of_lt {m n : Nat} (hn : n ≠ 0) (heven : n % 2 = 0) (hlt : m < n) :
    argError m n = some 3 := by
  have hodd : n % 2 ≠ 1 := by omega
  rw [argError, if_neg hn, if_neg hodd, if_pos hlt]

theorem argError_of_legal {n : Nat} (h : LegalNumpix n) : argError Config.maxPix n = none := by
  obtain ⟨htwo, hmax, heven⟩ := h
  exact (argError_eq_none_iff _ _).mpr ⟨by omega, by omega, hmax⟩

/-! ## What a command leaves: the flags after `NOP` -/

/-- The clearing of 40 R120 and then `DONE`: of `STATUS` only `BUSY` is what it was. -/
theorem State.setDone_clearFlags (s : State) :
    s.clearFlags.setDone = { s with status := ⟨s.status.busy, true, false, 0, 0⟩ } := rfl

/-! ## The obligations -/

/-- Settles O12: each premise decides `argError`; an error raises, and without one `OP` selects the next phase. -/
theorem argchkTestsZeroOddTooLargeInOrder : Obligations.ArgchkTestsZeroOddTooLargeInOrder := by
  rintro s _ rfl
  refine ⟨fun hzero => ?zero, fun hodd => ?odd, fun hn heven hlt => ?tooLarge,
    fun hlegal hop => ?quantize, fun hlegal hop => ?render⟩
  case zero => exact exec_argchk_error (hzero ▸ argError_zero _)
  case odd => exact exec_argchk_error (argError_of_odd _ hodd)
  case tooLarge => exact exec_argchk_error (argError_of_even_of_lt hn heven hlt)
  case quantize =>
    rw [exec_argchk_ok (argError_of_legal hlegal), if_pos hop, State.goto]
  case render =>
    have hne : s.op ≠ 1 := by rw [hop]; decide
    rw [exec_argchk_ok (argError_of_legal hlegal), if_neg hne, State.goto]

/-- Settles O8: with `BUSY = 0` the command is accepted, and acceptance clears before `NOP` sets `DONE`. -/
theorem nopClearsTheResultAndSetsDone : Obligations.NopClearsTheResultAndSetsDone := by
  intro s hidle
  rw [exec_nop, State.accept_idle _ hidle, State.setDone_clearFlags, hidle]

/-- Settles O15: `endBusy` writes the two flags and `goto` writes `PH`. -/
theorem finishSetsDoneAndReturnsToIdle : Obligations.FinishSetsDoneAndReturnsToIdle := by
  intro s
  rw [exec_finish, State.goto, State.endBusy]

end Sys2Proof.Machine

/-! Proofs about the k-means phases (41 R141, R144 to R154). -/

namespace Sys2Proof.Machine

/-! ## What `COPY` leaves in `WRK` (41 R141) -/

theorem State.wrkIn_copyWrk (s : State) (n i : Nat) :
    s.wrkIn (s.copyWrk n) i = if i < n then { s.wrkRead i with rgb := s.srcPixel i } else s.wrkRead i :=
  s.wrkIn_loop s.wrk n (fun i e => { e with rgb := s.srcPixel i }) i

/-- Settles O17: `COPY` writes entry `i` in pass `i`, so each entry below `NUMPIX` is written once. -/
theorem copyCopiesColoursIntoWrk : Obligations.CopyCopiesColoursIntoWrk := by
  intro s hn
  have hread (i : Nat) :
      ({ s with wrk := s.copyWrk s.numpix.toNat }.goto PhaseCode.seed).wrkRead i =
        s.wrkIn (s.copyWrk s.numpix.toNat) i := State.wrkRead_of_wrk rfl rfl i
  refine ⟨_, exec_copy hn, rfl, fun i hi => ?below, fun i hi => ?above⟩
  case below =>
    rw [hread, State.wrkIn_copyWrk, if_pos hi]
    rfl
  case above => rw [hread, State.wrkIn_copyWrk, if_neg (Nat.not_lt.mpr hi)]

/-- Settles O20: a file of copies of `Acc.zero` holds it at every label. -/
theorem clraccClearsEveryAccumulator : Obligations.ClraccClearsEveryAccumulator := by
  intro s
  exact ⟨_, exec_clracc s, rfl, fun k => fileGet_replicate Acc.zero k⟩

/-! ## The members of a cluster and their sums (41 R146) -/

theorem members_succ (n : Nat) (lab : Nat → Label) (k : Label) :
    members (n + 1) lab k = members n lab k ++ if lab n = k then [n] else [] := by
  by_cases h : lab n = k <;> simp [members, List.range_succ, h]

theorem length_members_succ (n : Nat) (lab : Nat → Label) (k : Label) :
    (members (n + 1) lab k).length = (members n lab k).length + if lab n = k then 1 else 0 := by
  by_cases h : lab n = k <;> simp [members_succ, h]

theorem clusterSum_succ (n : Nat) (lab : Nat → Label) (ch : Nat → Byte) (k : Label) :
    clusterSum (n + 1) lab ch k = clusterSum n lab ch k + if lab n = k then (ch n).toNat else 0 := by
  by_cases h : lab n = k <;> simp [clusterSum, members_succ, h]

theorem length_members_le (n : Nat) (lab : Nat → Label) (k : Label) : (members n lab k).length ≤ n :=
  (List.length_filter_le _ _).trans_eq List.length_range

/-- A channel is at most 255, so a sum is at most 255 for each member (41 R148). -/
theorem clusterSum_le (n : Nat) (lab : Nat → Label) (ch : Nat → Byte) (k : Label) :
    clusterSum n lab ch k ≤ 255 * (members n lab k).length := by
  have hch : ∀ x ∈ (members n lab k).map fun i => (ch i).toNat, x ≤ 255 := by
    intro x hx
    obtain ⟨i, -, rfl⟩ := List.mem_map.mp hx
    exact Nat.le_of_lt_succ (ch i).isLt
  calc clusterSum n lab ch k
      ≤ ((members n lab k).map fun i => (ch i).toNat).length • 255 := List.sum_le_card_nsmul _ _ hch
    _ = 255 * (members n lab k).length := by rw [List.length_map, smul_eq_mul, Nat.mul_comm]

/-- Each pixel is a member of exactly one cluster. -/
theorem sum_length_members (n : Nat) (lab : Nat → Label) :
    ((List.range 16).map fun k => (members n lab (BitVec.ofNat 4 k)).length).sum = n := by
  have one : ∀ l : Label, ((List.range 16).map fun k => if l = BitVec.ofNat 4 k then 1 else 0).sum = 1 := by
    decide
  induction n with
  | zero => rfl
  | succ n ih => simp only [length_members_succ, List.sum_map_add, ih, one]

/-! ## What `ACCUM` leaves in `ACC` (41 R145 to R147) -/

/-- From any contents of `ACC`, each field grows by the sum or the count over the cluster, modulo 2^32. -/
theorem State.fileGet_accumAcc (s : State) (n : Nat) (k : Label) :
    fileGet (s.accumAcc n) k =
      ⟨(fileGet s.acc k).sr + BitVec.ofNat 32 (clusterSum n s.lab (fun i => (s.px i).r) k),
       (fileGet s.acc k).sg + BitVec.ofNat 32 (clusterSum n s.lab (fun i => (s.px i).g) k),
       (fileGet s.acc k).sb + BitVec.ofNat 32 (clusterSum n s.lab (fun i => (s.px i).b) k),
       (fileGet s.acc k).cnt + BitVec.ofNat 32 (members n s.lab k).length⟩ := by
  induction n with
  | zero => simp [State.accumAcc, clusterSum, members]
  | succ n ih =>
    have hpass : s.accumAcc (n + 1) = fileSet (s.accumAcc n) (s.lab n)
        (Acc.addPixel (fileGet (s.accumAcc n) (s.lab n)) (s.px n)) := rfl
    rw [hpass, fileGet_fileSet]
    by_cases hk : s.lab n = k
    · subst hk
      simp [ih, Acc.addPixel, clusterSum_succ, length_members_succ, BitVec.ofNat_add, BitVec.add_assoc]
    · simp [ih, clusterSum_succ, length_members_succ, hk, Ne.symm hk]

/-- No count and no sum of a legal image reaches 2^32 (41 R147). -/
theorem toNat_zero_add_ofNat_of_le {x n : Nat} (hn : n ≤ Config.maxPix) (hx : x ≤ 255 * n) :
    ((0 : BitVec 32) + BitVec.ofNat 32 x).toNat = x := by
  have := maxPix_bounds
  rw [BitVec.ofNat_eq_ofNat, BitVec.zero_add, BitVec.toNat_ofNat, Nat.mod_eq_of_lt (by omega)]

/-- From cleared accumulators the fields are the exact sums and count: none has wrapped. -/
theorem State.toNat_fileGet_accumAcc {s : State} {n : Nat} {k : Label} (hn : n ≤ Config.maxPix)
    (hzero : fileGet s.acc k = Acc.zero) :
    (fileGet (s.accumAcc n) k).cnt.toNat = (members n s.lab k).length ∧
    (fileGet (s.accumAcc n) k).sr.toNat = clusterSum n s.lab (fun i => (s.px i).r) k ∧
    (fileGet (s.accumAcc n) k).sg.toNat = clusterSum n s.lab (fun i => (s.px i).g) k ∧
    (fileGet (s.accumAcc n) k).sb.toNat = clusterSum n s.lab (fun i => (s.px i).b) k := by
  have hlen := length_members_le n s.lab k
  have hsum (ch : Nat → Byte) : clusterSum n s.lab ch k ≤ 255 * n :=
    (clusterSum_le n s.lab ch k).trans (Nat.mul_le_mul_left _ hlen)
  rw [State.fileGet_accumAcc, hzero]
  exact ⟨toNat_zero_add_ofNat_of_le hn (by omega), toNat_zero_add_ofNat_of_le hn (hsum _),
    toNat_zero_add_ofNat_of_le hn (hsum _), toNat_zero_add_ofNat_of_le hn (hsum _)⟩

/-- Settles O22: `CLRACC` clears what `ACCUM` adds to, so the fields are the sums and counts themselves; their
bounds and the total of the counts are facts about clusters. -/
theorem accumulatorsHoldExactSums : Obligations.AccumulatorsHoldExactSums := by
  intro s a hn ha
  obtain rfl := Host.Outcome.next.inj ((exec_clracc s).symm.trans ha)
  have hexact (k : Label) := State.toNat_fileGet_accumAcc
    (s := { s with acc := Vector.replicate 16 Acc.zero }.goto PhaseCode.accum) (k := k) hn
    (fileGet_replicate Acc.zero k)
  refine ⟨_, exec_accum hn, fun k => ?fields, ?total⟩
  case fields =>
    obtain ⟨hcnt, hr, hg, hb⟩ := hexact k
    have hbound (ch : Nat → Byte) :=
      (clusterSum_le s.numpix.toNat s.lab ch k).trans_eq (congrArg (255 * ·) hcnt.symm)
    exact ⟨hcnt, hr, hg, hb, hcnt.trans_le (length_members_le _ _ k),
      hr.trans_le (hbound _), hg.trans_le (hbound _), hb.trans_le (hbound _)⟩
  case total =>
    calc _ = ((List.range 16).map fun k => (members s.numpix.toNat s.lab (BitVec.ofNat 4 k)).length).sum :=
          congrArg List.sum (List.map_congr_left fun k _ => (hexact (BitVec.ofNat 4 k)).1)
      _ = s.numpix.toNat := sum_length_members _ _

/-! ## What `MEAN` leaves in `CENT` (41 R148, R149) -/

/-- On its domain `mean8` is the floor of the quotient, which is a byte. -/
theorem toNat_mean8 {s c : BitVec 32} (hc : c ≠ 0) (hs : s.toNat ≤ 255 * c.toNat) :
    (mean8 s c).toNat = s.toNat / c.toNat := by
  have hquot : s.toNat / c.toNat ≤ 255 := Nat.div_le_of_le_mul (by rwa [Nat.mul_comm])
  rw [mean8, if_pos ⟨hc, hs⟩, BitVec.toNat_ofNat, Nat.mod_eq_of_lt (Nat.lt_succ_of_le hquot)]

theorem meanEntry_of_empty {a : Acc} (old : Rgb) (h : a.cnt = 0) : meanEntry a old = old := if_pos h

theorem meanEntry_of_members {a : Acc} (old : Rgb) (h : a.cnt ≠ 0) :
    meanEntry a old = ⟨mean8 a.sr a.cnt, mean8 a.sg a.cnt, mean8 a.sb a.cnt⟩ := if_neg h

/-- Settles O23: entry `k` is `meanEntry`, by whether cluster `k` has members. -/
theorem meanFloorsAndKeepsEmptyClusters : Obligations.MeanFloorsAndKeepsEmptyClusters := by
  intro s
  refine ⟨_, exec_mean s, rfl, fun k => ?_⟩
  have hentry : fileGet (Vector.ofFn fun k : Fin 16 => meanEntry s.acc[k] s.cent[k]) k =
      meanEntry (fileGet s.acc k) (fileGet s.cent k) := fileGet_ofFn _ k
  refine ⟨fun hempty => ?empty, fun hmem => ?members⟩
  case empty => exact hentry.trans (meanEntry_of_empty _ hempty)
  case members =>
    rw [State.goto, hentry, meanEntry_of_members _ hmem]
    exact ⟨toNat_mean8 hmem, toNat_mean8 hmem, toNat_mean8 hmem⟩

/-! ## The squared distance (41 R150) -/

theorem sqDiff_cast (x y : Byte) : (sqDiff x y : Int) = ((x.toNat : Int) - y.toNat) ^ 2 :=
  Int.toNat_of_nonneg (sq_nonneg _)

theorem sqDiff_comm (x y : Byte) : sqDiff x y = sqDiff y x := by
  rw [sqDiff, sqDiff, sub_sq_comm]

theorem sqDiff_eq_zero_iff (x y : Byte) : sqDiff x y = 0 ↔ x = y := by
  rw [← Nat.cast_eq_zero (R := Int), sqDiff_cast, sq_eq_zero_iff, sub_eq_zero, Nat.cast_inj, BitVec.toNat_inj]

theorem sqDiff_le (x y : Byte) : sqDiff x y ≤ 65025 := by
  have hx := x.isLt
  have hy := y.isLt
  have hsq : ((x.toNat : Int) - y.toNat) ^ 2 ≤ 255 ^ 2 := sq_le_sq' (by omega) (by omega)
  have := sqDiff_cast x y
  omega

theorem dist2_le (p c : Rgb) : dist2 p c ≤ 195075 := by
  have := sqDiff_le p.r c.r
  have := sqDiff_le p.g c.g
  have := sqDiff_le p.b c.b
  rw [dist2]
  omega

theorem dist2_eq_zero_iff (p c : Rgb) : dist2 p c = 0 ↔ p = c := by
  obtain ⟨pr, pg, pb⟩ := p
  obtain ⟨cr, cg, cb⟩ := c
  rw [Rgb.mk.injEq]
  simp only [dist2, Nat.add_eq_zero_iff, sqDiff_eq_zero_iff, and_assoc]

/-- Settles O24: each clause is the sum of the same fact about the three channels. -/
theorem distIsTheSquaredEuclideanDistance : Obligations.DistIsTheSquaredEuclideanDistance := by
  intro p c
  refine ⟨?euclid, dist2_le p c, ?symm, dist2_eq_zero_iff p c⟩
  case euclid => simp only [dist2, Nat.cast_add, sqDiff_cast]
  case symm => simp only [dist2, sqDiff_comm p.r, sqDiff_comm p.g, sqDiff_comm p.b]

/-! ## A scan for the least index of the least value (41 R151; 43 R188) -/

/-- `k` is the least index, among those up to `m`, at which `f` is least. -/
def IsLeastArgUpTo (f : Label → Nat) (m : Nat) (k : Label) : Prop :=
  k.toNat ≤ m ∧ (∀ j : Label, j.toNat ≤ m → f k ≤ f j) ∧ ∀ j : Label, j.toNat < k.toNat → f k < f j

theorem isLeastArgUpTo_zero (f : Label → Nat) : IsLeastArgUpTo f 0 0 := by
  refine ⟨Nat.le_refl _, fun j hj => ?_, fun j hj => absurd hj (Nat.not_lt_zero _)⟩
  rw [BitVec.eq_of_toNat_eq (x := j) (y := 0) (Nat.le_zero.mp hj)]

/-- One pass of the scan: the next index takes over exactly when its value is strictly less. -/
theorem IsLeastArgUpTo.succ {f : Label → Nat} {m : Nat} {k next : Label} (h : IsLeastArgUpTo f m k)
    (hnext : next.toNat = m + 1) : IsLeastArgUpTo f (m + 1) (if f next < f k then next else k) := by
  obtain ⟨hk, hleast, hfirst⟩ := h
  have hcases (j : Label) (hj : j.toNat ≤ m + 1) : j.toNat ≤ m ∨ j = next := by
    rcases Nat.le_succ_iff.mp hj with hj | hj
    · exact .inl hj
    · exact .inr (BitVec.eq_of_toNat_eq (hj.trans hnext.symm))
  split
  case isTrue hlt =>
    refine ⟨hnext.le, fun j hj => ?_, fun j hj => ?_⟩
    · rcases hcases j hj with hj | rfl
      · exact hlt.le.trans (hleast j hj)
      · exact Nat.le_refl _
    · exact hlt.trans_le (hleast j (by omega))
  case isFalse hge =>
    refine ⟨by omega, fun j hj => ?_, hfirst⟩
    rcases hcases j hj with hj | rfl
    · exact hleast j hj
    · exact Nat.le_of_not_lt hge

/-- The scan to the last label is over all of them. -/
theorem IsLeastArgUpTo.isLeastArg {f : Label → Nat} {k : Label} (h : IsLeastArgUpTo f 15 k) : IsLeastArg f k := by
  obtain ⟨-, hleast, hfirst⟩ := h
  exact ⟨fun j => hleast j (Nat.le_of_lt_succ j.isLt), hfirst⟩

/-! ## The comparator (41 R151) -/

/-- A distance fits in `BESTD` (10 R36). -/
theorem toNat_ofNat_dist2 (p c : Rgb) : (BitVec.ofNat 18 (dist2 p c)).toNat = dist2 p c := by
  have := dist2_le p c
  rw [BitVec.toNat_ofNat, Nat.mod_eq_of_lt (by omega)]

/-- What the comparator holds after centroid `m`: the nearest centroid so far and its distance. -/
def ScanHolds (p : Rgb) (C : Vector Rgb 16) (m : Nat) (x : Label × BitVec 18) : Prop :=
  IsLeastArgUpTo (fun k => dist2 p (fileGet C k)) m x.1 ∧ x.2 = BitVec.ofNat 18 (dist2 p (fileGet C x.1))

theorem nearestScan_holds (p : Rgb) (C : Vector Rgb 16) : ScanHolds p C 15 (nearestScan p C) := by
  refine loop_ind (ScanHolds p C) 15 ⟨isLeastArgUpTo_zero _, rfl⟩ ?_
  rintro j x hj ⟨hleast, hdist⟩
  have hnext : (BitVec.ofNat 4 (j + 1)).toNat = j + 1 := by
    rw [BitVec.toNat_ofNat, Nat.mod_eq_of_lt (by omega)]
  have hpass := hleast.succ hnext
  simp only [BitVec.lt_def, hdist, toNat_ofNat_dist2]
  split at hpass
  case isTrue hlt =>
    rw [if_pos hlt]
    exact ⟨hpass, rfl⟩
  case isFalse hge =>
    rw [if_neg hge]
    exact ⟨hpass, hdist⟩

theorem nearest_isLeastArg (p : Rgb) (C : Vector Rgb 16) :
    IsLeastArg (fun k => dist2 p (fileGet C k)) (nearest p C) :=
  (nearestScan_holds p C).1.isLeastArg

/-- Settles O25: what the comparator holds after the last centroid. -/
theorem nearestIsTheLeastIndexOfLeastDistance : Obligations.NearestIsTheLeastIndexOfLeastDistance := by
  intro p C
  refine ⟨nearest_isLeastArg p C, ?_⟩
  rw [(nearestScan_holds p C).2, toNat_ofNat_dist2, nearest]

/-! ## What `ASSIGN` leaves in `WRK` and `CHANGED` (41 R152, R153) -/

/-- Entry `i` of `WRK` with the label of its nearest centroid. -/
def State.relabelled (s : State) (i : Nat) : WrkEntry :=
  { s.wrkRead i with l := nearest (s.wrkRead i).rgb s.cent }

theorem State.relabelled_l (s : State) (i : Nat) :
    (s.relabelled i).l = nearest (s.wrkRead i).rgb s.cent := by
  rw [State.relabelled]

/-- One pass writes one entry: where the label is already the nearest, that write would change nothing. -/
theorem State.wrkIn_assignPixel (s : State) (i : Nat) (a : AssignLoop) (b : Nat) :
    s.wrkIn (s.assignPixel i a).wrk b =
      if b = i then { s.wrkIn a.wrk i with l := nearest (s.wrkIn a.wrk i).rgb s.cent } else s.wrkIn a.wrk b := by
  unfold State.assignPixel
  dsimp only
  rw [← nearest]
  by_cases hl : nearest (s.wrkIn a.wrk i).rgb s.cent = (s.wrkIn a.wrk i).l
  · rw [if_pos hl, hl]
    by_cases hb : b = i
    · rw [if_pos hb, hb]
    · rw [if_neg hb]
  · rw [if_neg hl, State.wrkIn_put]

/-- What the loop of `ASSIGN` holds after the pixels below `n`. -/
structure State.AssignHolds (s : State) (n : Nat) (a : AssignLoop) : Prop where
  wrk : ∀ i, s.wrkIn a.wrk i = if i < n then s.relabelled i else s.wrkRead i
  changed : a.changed = true ↔ ∃ i, i < n ∧ (s.relabelled i).l ≠ (s.wrkRead i).l

theorem State.AssignHolds.succ {s : State} {n : Nat} {a : AssignLoop} (h : s.AssignHolds n a) :
    s.AssignHolds (n + 1) (s.assignPixel n a) := by
  have hentry : s.wrkIn a.wrk n = s.wrkRead n := by rw [h.wrk, if_neg (Nat.lt_irrefl n)]
  refine ⟨fun i => ?wrk, ?changed⟩
  case wrk =>
    rw [State.wrkIn_assignPixel, hentry, h.wrk]
    by_cases hi : i = n
    · subst hi
      simp [State.relabelled]
    · have : i < n + 1 ↔ i < n := by omega
      simp [hi, this]
  case changed =>
    have hpass : (s.assignPixel n a).changed =
        (a.changed || nearest (s.wrkIn a.wrk n).rgb s.cent != (s.wrkIn a.wrk n).l) := rfl
    rw [hpass, Bool.or_eq_true, h.changed, bne_iff_ne, hentry, Nat.exists_lt_succ_right, s.relabelled_l n]

theorem State.assignAll_holds (s : State) (n : Nat) : s.AssignHolds n (s.assignAll n) := by
  refine loop_ind s.AssignHolds n ⟨fun i => ?wrk, ?changed⟩ fun i x _ hx => hx.succ
  case wrk => exact (if_neg (Nat.not_lt_zero i)).symm
  case changed => simp

/-- What `WRK` and `CHANGED` read after `ASSIGN`. -/
theorem exec_assign_reads {s t : State} (h : exec .assign s = .next t) :
    (∀ i, t.wrkRead i = if i < s.numpix.toNat then s.relabelled i else s.wrkRead i) ∧
    (t.changed = true ↔ ∃ i, i < s.numpix.toNat ∧ (s.relabelled i).l ≠ (s.wrkRead i).l) := by
  obtain rfl := Host.Outcome.next.inj ((exec_assign (fits_of_exec_next h rfl)).symm.trans h)
  obtain ⟨hwrk, hchanged⟩ := s.assignAll_holds s.numpix.toNat
  exact ⟨fun i => (State.wrkRead_of_wrk rfl rfl i).trans (hwrk i), hchanged⟩

/-- Settles O26: below `NUMPIX` an entry reads relabelled, so `CHANGED` speaks of the labels read afterwards. -/
theorem assignMovesPixelsToTheNearestCentroid : Obligations.AssignMovesPixelsToTheNearestCentroid := by
  intro s hn
  obtain ⟨hread, hchanged⟩ := exec_assign_reads (exec_assign hn)
  refine ⟨_, exec_assign hn, rfl, fun i hi => ?below, fun i hi => ?above, hchanged.trans ?changed⟩
  case below => exact (hread i).trans (if_pos hi)
  case above => exact (hread i).trans (if_neg (Nat.not_lt.mpr hi))
  case changed =>
    refine exists_congr fun i => and_congr_right fun hi => ?_
    rw [hread i, if_pos hi]

/-! ## What `ROUNDEND` decides (41 R154) -/

/-- Settles O27: each premise decides the tests of `exec_roundend`. -/
theorem roundendCountsAndLoopsOrLeaves : Obligations.RoundendCountsAndLoopsOrLeaves := by
  intro s
  rw [exec_roundend]
  refine ⟨fun hsame => ?converged, fun hchanged hcap => ?cap, fun hchanged hcap => ?again⟩
  case converged => rw [if_pos hsame, State.goto]
  case cap => rw [if_neg (by simp [hchanged]), if_pos hcap, State.goto, hcap]
  case again => rw [if_neg (by simp [hchanged]), if_neg hcap, State.goto]

end Sys2Proof.Machine

/-! Proofs about the palette output and the nibble packer (42 R170, R171, R174). -/

namespace Sys2Proof.Machine

/-! ## What `PALOUT` leaves in `PAL` (42 R170) -/

/-- Entry `k` of the palette when `PAL` holds the cells `c`, as `byteIn` is for a byte. -/
def State.palEntryIn (s : State) (c : Memory Byte) (k : Label) : Rgb :=
  ⟨s.byteIn .pal c (palAddr k 0), s.byteIn .pal c (palAddr k 1), s.byteIn .pal c (palAddr k 2)⟩

theorem State.palEntry_pal_goto (s : State) (c : Memory Byte) (p : PhCode) (k : Label) :
    ({ s with pal := c }.goto p : State).palEntry k = s.palEntryIn c k := rfl

theorem State.palEntry_eq_iff (s : State) (k : Label) (p : Rgb) :
    s.palEntry k = p ↔ s.memRead .pal (3 * k.toNat) = p.r ∧ s.memRead .pal (3 * k.toNat + 1) = p.g ∧
      s.memRead .pal (3 * k.toNat + 2) = p.b := by
  obtain ⟨r, g, b⟩ := p
  rw [State.palEntry, Rgb.mk.injEq]
  rfl

/-- An entry after an entry is written: the three bytes of one label are no bytes of another. -/
theorem State.palEntryIn_putPalEntry (s : State) (c : Memory Byte) (j k : Label) (p : Rgb) :
    s.palEntryIn (putPalEntry c j p) k = if k = j then p else s.palEntryIn c k := by
  by_cases hk : k = j
  · subst hk
    simp [State.palEntryIn, State.byteIn_putPalEntry, palAddr]
  · have hne : k.toNat ≠ j.toNat := fun h => hk (BitVec.eq_of_toNat_eq h)
    have hmiss (a : Nat) (ha : a < 3) :
        s.byteIn .pal (putPalEntry c j p) (palAddr k a) = s.byteIn .pal c (palAddr k a) := by
      rw [State.byteIn_putPalEntry, palAddr, if_neg (by omega), if_neg (by omega), if_neg (by omega)]
    simp [State.palEntryIn, hmiss, hk]

/-- What the loop of `PALOUT` holds after the entries below `n`. -/
structure State.PaloutHolds (s : State) (n : Nat) (c : Memory Byte) : Prop where
  entry : ∀ k : Label, k.toNat < n → s.palEntryIn c k = fileGet s.cent k
  rest : ∀ a, 3 * n ≤ a → s.byteIn .pal c a = s.memRead .pal a

theorem State.PaloutHolds.succ {s : State} {n : Nat} {c : Memory Byte} (h : s.PaloutHolds n c) (hn : n < 16) :
    s.PaloutHolds (n + 1) (putPalEntry c (BitVec.ofNat 4 n) (fileGet s.cent (BitVec.ofNat 4 n))) := by
  have hlabel : (BitVec.ofNat 4 n).toNat = n := by
    rw [BitVec.toNat_ofNat, Nat.mod_eq_of_lt (by omega)]
  refine ⟨fun k hk => ?entry, fun a ha => ?rest⟩
  case entry =>
    rw [State.palEntryIn_putPalEntry]
    split
    case isTrue heq => rw [heq]
    case isFalse hne =>
      have : k.toNat ≠ n := fun heq => hne (BitVec.eq_of_toNat_eq (heq.trans hlabel.symm))
      exact h.entry k (by omega)
  case rest =>
    rw [State.byteIn_putPalEntry, hlabel, if_neg (by omega), if_neg (by omega), if_neg (by omega)]
    exact h.rest a (by omega)

theorem State.paloutPal_holds (s : State) : s.PaloutHolds 16 s.paloutPal :=
  loop_ind s.PaloutHolds 16 ⟨fun _ hk => absurd hk (Nat.not_lt_zero _), fun _ _ => rfl⟩
    fun _ _ hn hc => hc.succ hn

/-- What `PAL` reads after `PALOUT`. -/
theorem exec_palout_reads {s t : State} (h : exec .palout s = .next t) :
    (∀ k, t.palEntry k = fileGet s.cent k) ∧ ∀ a, 48 ≤ a → t.memRead .pal a = s.memRead .pal a := by
  obtain rfl := Host.Outcome.next.inj ((exec_palout s).symm.trans h)
  obtain ⟨hentry, hrest⟩ := s.paloutPal_holds
  exact ⟨fun k => (State.palEntry_pal_goto ..).trans (hentry k k.isLt),
    fun a ha => (State.memRead_pal_goto ..).trans (hrest a ha)⟩

/-- Settles O29: the sixteen entries lie side by side, so each keeps what its pass wrote. -/
theorem paloutWritesTheCentroidsToPal : Obligations.PaloutWritesTheCentroidsToPal := by
  intro s
  obtain ⟨hentry, hrest⟩ := exec_palout_reads (exec_palout s)
  refine ⟨_, exec_palout s, ?frame, fun k => (State.palEntry_eq_iff _ k _).mp (hentry k), hrest⟩
  case frame => rw [State.goto]

/-! ## What `PACK` leaves in `IMG` (42 R171) -/

theorem State.byteIn_packImg (s : State) (n j : Nat) :
    s.byteIn .img (s.packImg n) j =
      if j < n / 2 then packByte (s.wrkRead (2 * j)).l (s.wrkRead (2 * j + 1)).l else s.memRead .img j :=
  s.byteIn_loop .img s.img (n / 2) (fun j _ => packByte (s.wrkRead (2 * j)).l (s.wrkRead (2 * j + 1)).l) j

/-- What `IMG` reads after `PACK`. -/
theorem exec_pack_reads {s t : State} (h : exec .pack s = .next t) (j : Nat) :
    t.memRead .img j =
      if j < s.numpix.toNat / 2 then packByte (s.wrkRead (2 * j)).l (s.wrkRead (2 * j + 1)).l
      else s.memRead .img j := by
  obtain rfl := Host.Outcome.next.inj ((exec_pack (fits_of_exec_next h rfl)).symm.trans h)
  rw [State.memRead_img_goto, State.byteIn_packImg]

/-- Settles O30: `PACK` writes byte `j` in pass `j`, so each byte below `NUMPIX / 2` is written once. -/
theorem packWritesTwoLabelsPerByte : Obligations.PackWritesTwoLabelsPerByte := by
  intro s hn
  have hread := exec_pack_reads (exec_pack hn)
  refine ⟨_, exec_pack hn, rfl, fun j hj => ?below, fun a ha => ?above⟩
  case below => exact (hread j).trans (if_pos hj)
  case above => exact (hread a).trans (if_neg (Nat.not_lt.mpr ha))

/-! ## The nibble primitives, by the parity of the pixel (42 R172 to R174) -/

theorem getnib_of_even (M : Nat → Byte) {i : Nat} (h : i % 2 = 0) : getnib M i = hiNibble (M (i / 2)) := if_pos h

theorem getnib_of_odd (M : Nat → Byte) {i : Nat} (h : i % 2 = 1) : getnib M i = loNibble (M (i / 2)) :=
  if_neg (by omega)

theorem setnib_of_even (b : Byte) {i : Nat} (v : Label) (h : i % 2 = 0) :
    setnib b i v = packByte v (loNibble b) := if_pos h

theorem setnib_of_odd (b : Byte) {i : Nat} (v : Label) (h : i % 2 = 1) :
    setnib b i v = packByte (hiNibble b) v := if_neg (by omega)

/-- The index of a pixel depends on its byte alone. -/
theorem getnib_congr {M M' : Nat → Byte} {i : Nat} (h : M' (i / 2) = M (i / 2)) : getnib M' i = getnib M i := by
  rw [getnib, getnib, h]

theorem getnib_of_setnib_self {M M' : Nat → Byte} {i : Nat} {v : Label}
    (h : M' (i / 2) = setnib (M (i / 2)) i v) : getnib M' i = v := by
  rcases Nat.mod_two_eq_zero_or_one i with hi | hi
  · rw [getnib_of_even _ hi, h, setnib_of_even _ _ hi, hiNibble_packByte]
  · rw [getnib_of_odd _ hi, h, setnib_of_odd _ _ hi, loNibble_packByte]

/-- The other pixel of the byte has the other parity, and `setnib` keeps its nibble. -/
theorem getnib_of_setnib_sibling {M M' : Nat → Byte} {i i' : Nat} {v : Label} (hne : i' ≠ i)
    (hbyte : i' / 2 = i / 2) (h : M' (i / 2) = setnib (M (i / 2)) i v) : getnib M' i' = getnib M i' := by
  rcases Nat.mod_two_eq_zero_or_one i with hi | hi
  · have hi' : i' % 2 = 1 := by omega
    rw [getnib_of_odd _ hi', getnib_of_odd _ hi', hbyte, h, setnib_of_even _ _ hi, loNibble_packByte]
  · have hi' : i' % 2 = 0 := by omega
    rw [getnib_of_even _ hi', getnib_of_even _ hi', hbyte, h, setnib_of_odd _ _ hi, hiNibble_packByte]

theorem setnib_even_odd (b : Byte) (j : Nat) (h l : Label) :
    setnib (setnib b (2 * j) h) (2 * j + 1) l = packByte h l := by
  rw [setnib_of_odd _ _ (by omega), setnib_of_even _ _ (by omega), hiNibble_packByte]

theorem setnib_odd_even (b : Byte) (j : Nat) (h l : Label) :
    setnib (setnib b (2 * j + 1) l) (2 * j) h = packByte h l := by
  rw [setnib_of_even _ _ (by omega), setnib_of_odd _ _ (by omega), loNibble_packByte]

/-- Settles O31: a pixel other than `i` is the other one of the same byte, or lies in a byte that is unchanged. -/
theorem nibblePrimitivesReadBackWhatTheyPack : Obligations.NibblePrimitivesReadBackWhatTheyPack := by
  intro M M' i v hM
  have hwritten : M' (i / 2) = setnib (M (i / 2)) i v := (hM _).trans (if_pos rfl)
  refine ⟨getnib_of_setnib_self hwritten, fun i' hne => ?other, fun b j h l => ?both⟩
  case other =>
    by_cases hbyte : i' / 2 = i / 2
    · exact getnib_of_setnib_sibling hne hbyte hwritten
    · exact getnib_congr ((hM _).trans (if_neg hbyte))
  case both => exact ⟨setnib_even_odd b j h l, setnib_odd_even b j h l⟩

end Sys2Proof.Machine

/-! Proofs about moving the darkest colour to slot 0 (43 R186 to R195). -/

namespace Sys2Proof.Machine

/-! ## What `LUMA` leaves in `LUM` (43 R186, R187) -/

theorem luma1000_le (c : Rgb) : luma1000 c ≤ 255000 := by
  have hr := c.r.isLt
  have hg := c.g.isLt
  have hb := c.b.isLt
  simp only [luma1000, Config.wr, Config.wg, Config.wb]
  omega

/-- A luminance fits in an entry of `LUM` (10 R34). -/
theorem toNat_ofNat_luma1000 (c : Rgb) : (BitVec.ofNat 18 (luma1000 c)).toNat = luma1000 c := by
  have := luma1000_le c
  rw [BitVec.toNat_ofNat, Nat.mod_eq_of_lt (by omega)]

theorem exec_luma_reads {s t : State} (h : exec .luma s = .next t) (k : Label) :
    (fileGet t.lum k).toNat = luma1000 (s.palEntry k) := by
  obtain rfl := Host.Outcome.next.inj ((exec_luma s).symm.trans h)
  rw [State.goto_lum, fileGet_ofFn, toNat_ofNat_luma1000, BitVec.ofNat_toNat, BitVec.setWidth_eq]

/-- Settles O33: no sum of 43 R186 exceeds 255000, so writing it to 18 bits loses nothing. -/
theorem lumaMeasuresEveryPaletteEntry : Obligations.LumaMeasuresEveryPaletteEntry := by
  intro s
  have hread := exec_luma_reads (exec_luma s)
  refine ⟨_, exec_luma s, rfl, fun k => ⟨?value, ?bound⟩⟩
  case value => exact hread k
  case bound => exact (hread k).trans_le (luma1000_le _)

/-! ## The scan of `DARKEST` (43 R188) -/

theorem darkest_isLeastArg (Y : Vector (BitVec 18) 16) :
    IsLeastArg (fun k => (fileGet Y k).toNat) (darkest Y) := by
  refine (loop_ind (IsLeastArgUpTo _) 15 (isLeastArgUpTo_zero _) fun j d hj hd => ?_).isLeastArg
  exact hd.succ (by rw [BitVec.toNat_ofNat, Nat.mod_eq_of_lt (by omega)])

/-- Settles O34: `DARKEST` puts the result of the scan in `DARK.IDX`. -/
theorem darkestSelectsTheLeastIndexOfLeastLuminance :
    Obligations.DarkestSelectsTheLeastIndexOfLeastLuminance := by
  intro s
  exact ⟨_, exec_darkest s, rfl, darkest_isLeastArg s.lum⟩

/-! ## The exchange of two indices (43 R192, R193) -/

theorem swapidx_zero_right (d : Label) : swapidx d 0 = d := if_pos rfl

@[simp] theorem swapidx_self (d : Label) : swapidx d d = 0 := by
  rw [swapidx, if_pos (rfl : d = d)]
  split
  case isTrue hzero => exact hzero
  case isFalse => rfl

theorem swapidx_of_ne {d v : Label} (hzero : v ≠ 0) (hd : v ≠ d) : swapidx d v = v := by
  rw [swapidx, if_neg hzero, if_neg hd]

@[simp] theorem swapidx_swapidx (d v : Label) : swapidx d (swapidx d v) = v := by
  by_cases hzero : v = 0
  · rw [hzero, swapidx_zero_right, swapidx_self]
  by_cases hd : v = d
  · rw [hd, swapidx_self, swapidx_zero_right]
  · rw [swapidx_of_ne hzero hd, swapidx_of_ne hzero hd]

theorem swapidx_zero_left (v : Label) : swapidx 0 v = v := by
  by_cases hzero : v = 0
  · rw [hzero, swapidx_self]
  · exact swapidx_of_ne hzero hzero

/-- The exchange in the order in which `BLACKSWAP` writes: entry `d` last. -/
theorem apply_swapidx {α : Type} (f : Label → α) (d v : Label) :
    f (swapidx d v) = if v = d then f 0 else if v = 0 then f d else f v := by
  by_cases hd : v = d
  · rw [if_pos hd, hd, swapidx_self]
  by_cases hzero : v = 0
  · rw [if_neg hd, if_pos hzero, hzero, swapidx_zero_right]
  · rw [if_neg hd, if_neg hzero, swapidx_of_ne hzero hd]

theorem swapidx_eq_left_iff (d v : Label) : swapidx d v = d ↔ v = 0 := by
  constructor
  · intro h
    rw [← swapidx_swapidx d v, h, swapidx_self]
  · rintro rfl
    exact swapidx_zero_right d

@[simp] theorem lutbyte_packByte (d h l : Label) :
    lutbyte d (packByte h l) = packByte (swapidx d h) (swapidx d l) := by
  rw [lutbyte, hiNibble_packByte, loNibble_packByte]

theorem lutbyte_zero_left (b : Byte) : lutbyte 0 b = b := by
  rw [lutbyte, swapidx_zero_left, swapidx_zero_left, packByte_nibbles]

@[simp] theorem lutbyte_lutbyte (d : Label) (b : Byte) : lutbyte d (lutbyte d b) = b := by
  rw [← packByte_nibbles b, lutbyte_packByte, lutbyte_packByte, swapidx_swapidx, swapidx_swapidx]

/-- Settles O36: a byte is its two nibbles, so what holds of `swapidx` holds of `lutbyte`. -/
theorem swapidxAndLutbyteExchangeTwoIndices : Obligations.SwapidxAndLutbyteExchangeTwoIndices := by
  intro d v
  exact ⟨swapidx_zero_right d, swapidx_self d, swapidx_of_ne, swapidx_zero_left v, swapidx_swapidx d v,
    fun h l b => ⟨lutbyte_packByte d h l, lutbyte_zero_left b, lutbyte_lutbyte d b⟩⟩

/-! ## What `BLACKSWAP` leaves in `PAL` (43 R190, R191) -/

/-- The channels of the entries lie side by side. -/
theorem palAddr_inj {j k : Label} {a b : Nat} (ha : a < 3) (hb : b < 3) :
    palAddr j a = palAddr k b ↔ j = k ∧ a = b := by
  rw [palAddr, palAddr, ← BitVec.toNat_inj]
  omega

theorem palAddr_lt (k : Label) {a : Nat} (ha : a < 3) : palAddr k a < 48 := by
  have := k.isLt
  rw [palAddr]
  omega

/-- Equal entries have equal channels. -/
theorem State.memRead_of_palEntry_eq {s t : State} {j k : Label} (h : t.palEntry j = s.palEntry k) {a : Nat}
    (ha : a < 3) : t.memRead .pal (3 * j.toNat + a) = s.memRead .pal (3 * k.toNat + a) := by
  obtain ⟨hr, hg, hb⟩ := Rgb.mk.inj h
  match a, ha with
  | 0, _ => exact hr
  | 1, _ => exact hg
  | 2, _ => exact hb

/-- What the exchange of entries 0 and `d` of the cells `c` holds after the channels below `n`. -/
structure State.SwapHolds (s : State) (c : Memory Byte) (d : Label) (n : Nat) (x : Memory Byte) : Prop where
  entry : ∀ (k : Label) (a : Nat), a < 3 →
    s.byteIn .pal x (palAddr k a) = s.byteIn .pal c (palAddr (if a < n then swapidx d k else k) a)
  rest : ∀ a, 48 ≤ a → s.byteIn .pal x a = s.byteIn .pal c a

theorem State.SwapHolds.succ {s : State} {c x : Memory Byte} {d : Label} {n : Nat} (h : s.SwapHolds c d n x)
    (hn : n < 3) :
    s.SwapHolds c d (n + 1)
      ((x.put (palAddr 0 n) (s.byteIn .pal x (palAddr d n))).put (palAddr d n) (s.byteIn .pal x (palAddr 0 n))) := by
  have hold (k : Label) : s.byteIn .pal x (palAddr k n) = s.byteIn .pal c (palAddr k n) := by
    rw [h.entry k n hn, if_neg (Nat.lt_irrefl n)]
  refine ⟨fun k a ha => ?entry, fun a ha => ?rest⟩
  case entry =>
    simp only [State.byteIn_put, palAddr_inj ha hn]
    by_cases han : a = n
    · subst han
      simp only [and_true, Nat.lt_succ_self, if_true, hold]
      exact (apply_swapidx (fun j => s.byteIn .pal c (palAddr j a)) d k).symm
    · have hlt : a < n + 1 ↔ a < n := by omega
      simp only [han, and_false, if_false, hlt]
      exact h.entry k a ha
  case rest =>
    have hmiss (k : Label) : a ≠ palAddr k n := fun heq => by
      have := palAddr_lt k hn
      omega
    rw [State.byteIn_put, if_neg (hmiss d), State.byteIn_put, if_neg (hmiss 0)]
    exact h.rest a ha

theorem State.swapEntries_holds (s : State) (c : Memory Byte) (d : Label) :
    s.SwapHolds c d 3 (s.swapEntries c d) :=
  loop_ind (s.SwapHolds c d) 3 ⟨fun _ _ _ => by rw [if_neg (Nat.not_lt_zero _)], fun _ _ => rfl⟩
    fun _ _ hn hx => hx.succ hn

theorem State.palEntryIn_swapEntries (s : State) (c : Memory Byte) (d k : Label) :
    s.palEntryIn (s.swapEntries c d) k = s.palEntryIn c (swapidx d k) := by
  have hentry := (s.swapEntries_holds c d).entry k
  rw [State.palEntryIn, hentry 0 (by decide), hentry 1 (by decide), hentry 2 (by decide)]
  rfl

/-- The cells `BLACKSWAP` leaves; with `d = 0` the exchange would change nothing. -/
def State.blackswapPal (s : State) : Memory Byte :=
  if s.dark = 0 then blacken s.pal s.dark else s.swapEntries (blacken s.pal s.dark) s.dark

theorem State.palEntryIn_blackswapPal (s : State) (k : Label) :
    s.palEntryIn s.blackswapPal k = if k = 0 then Rgb.black else s.palEntry (swapidx s.dark k) := by
  have hswap : s.palEntryIn s.blackswapPal k = s.palEntryIn (blacken s.pal s.dark) (swapidx s.dark k) := by
    rw [State.blackswapPal]
    split
    case isTrue hzero => rw [hzero, swapidx_zero_left]
    case isFalse => exact s.palEntryIn_swapEntries _ _ _
  rw [hswap, blacken, State.palEntryIn_putPalEntry]
  simp only [swapidx_eq_left_iff]
  rfl

theorem State.byteIn_blacken_of_ge (s : State) (c : Memory Byte) (d : Label) {a : Nat} (ha : 48 ≤ a) :
    s.byteIn .pal (blacken c d) a = s.byteIn .pal c a := by
  have := d.isLt
  rw [blacken, State.byteIn_putPalEntry, if_neg (by omega), if_neg (by omega), if_neg (by omega)]

theorem State.byteIn_blackswapPal_of_ge (s : State) {a : Nat} (ha : 48 ≤ a) :
    s.byteIn .pal s.blackswapPal a = s.memRead .pal a := by
  rw [State.blackswapPal]
  split
  case isTrue => exact s.byteIn_blacken_of_ge _ _ ha
  case isFalse => exact ((s.swapEntries_holds _ _).rest a ha).trans (s.byteIn_blacken_of_ge _ _ ha)

/-- What `PAL` reads after `BLACKSWAP`. -/
theorem exec_blackswap_reads {s t : State} (h : exec .blackswap s = .next t) :
    (∀ k, t.palEntry k = if k = 0 then Rgb.black else s.palEntry (swapidx s.dark k)) ∧
    ∀ a, 48 ≤ a → t.memRead .pal a = s.memRead .pal a := by
  obtain rfl := Host.Outcome.next.inj ((exec_blackswap s).symm.trans h)
  exact ⟨fun k => (State.palEntry_pal_goto ..).trans (s.palEntryIn_blackswapPal k),
    fun a ha => (State.memRead_pal_goto ..).trans (s.byteIn_blackswapPal_of_ge ha)⟩

/-- Settles O35: entry `d` is made black before the exchange, so the black entry is the one that moves to slot 0. -/
theorem blackswapMovesBlackToSlotZero : Obligations.BlackswapMovesBlackToSlotZero := by
  intro s
  obtain ⟨hentry, hrest⟩ := exec_blackswap_reads (exec_blackswap s)
  refine ⟨_, exec_blackswap s, rfl, ?black, fun hd c hc => ?moved, fun k hzero hd c hc => ?kept, hrest⟩
  case black => exact (State.palEntry_eq_iff _ 0 Rgb.black).mp (hentry 0)
  case moved =>
    have hmoved := (hentry s.dark).trans (if_neg hd)
    rw [swapidx_self] at hmoved
    simpa using State.memRead_of_palEntry_eq hmoved hc
  case kept =>
    have hkept := (hentry k).trans (if_neg hzero)
    rw [swapidx_of_ne hzero hd] at hkept
    exact State.memRead_of_palEntry_eq hkept hc

/-! ## What `LUTGEN` leaves in `LUT` (43 R194) -/

theorem exec_lutgen_reads {s t : State} (h : exec .lutgen s = .next t) (b : Byte) :
    t.lutAt b = lutbyte s.dark b := by
  obtain rfl := Host.Outcome.next.inj ((exec_lutgen s).symm.trans h)
  simp [State.lutAt]

/-- Settles O37: the entry of the table at index `b` is written from the byte `b`. -/
theorem lutgenBuildsTheRelabelTable : Obligations.LutgenBuildsTheRelabelTable := by
  intro s
  exact ⟨_, exec_lutgen s, rfl, exec_lutgen_reads (exec_lutgen s)⟩

/-! ## What `RELABEL` leaves in `IMG` (43 R195) -/

theorem State.byteIn_relabelImg (s : State) (n j : Nat) :
    s.byteIn .img (s.relabelImg n) j =
      if j < n / 2 then s.lutAt (s.memRead .img j) else s.memRead .img j :=
  s.byteIn_loop .img s.img (n / 2) (fun _ b => s.lutAt b) j

/-- What `IMG` reads after `RELABEL`. -/
theorem exec_relabel_reads {s t : State} (h : exec .relabel s = .next t) (j : Nat) :
    t.memRead .img j =
      if j < s.numpix.toNat / 2 then s.lutAt (s.memRead .img j) else s.memRead .img j := by
  obtain rfl := Host.Outcome.next.inj ((exec_relabel (fits_of_exec_next h rfl)).symm.trans h)
  rw [State.memRead_img_goto, State.byteIn_relabelImg]

/-- Settles O38: pass `j` reads and writes byte `j` alone, so it goes through the table once. -/
theorem relabelMapsEveryByteThroughTheTable : Obligations.RelabelMapsEveryByteThroughTheTable := by
  intro s hn
  have hread := exec_relabel_reads (exec_relabel hn)
  refine ⟨_, exec_relabel hn, rfl, fun j hj => ?below, fun a ha => ?above⟩
  case below => exact (hread j).trans (if_pos hj)
  case above => exact (hread a).trans (if_neg (Nat.not_lt.mpr ha))

end Sys2Proof.Machine

/-! Proofs about the renderer (44 R206). -/

namespace Sys2Proof.Machine

/-! ## A pixel that is written (44 R206) -/

theorem State.byteIn_putPixel_alpha (s : State) (m : MemName) (c : Memory Byte) (i : Nat) (p : Rgb) (al : Byte) :
    s.byteIn m (putPixel c i p al) (4 * i + 3) = al := by
  rw [State.byteIn_putPixel, if_pos rfl]

/-- The channels of a palette entry and of a pixel stand in the same order. -/
theorem State.byteIn_putPixel_palEntry (s : State) (m : MemName) (c : Memory Byte) (i : Nat) (k : Label) (al : Byte)
    {ch : Nat} (hch : ch < 3) :
    s.byteIn m (putPixel c i (s.palEntry k) al) (4 * i + ch) = s.memRead .pal (3 * k.toNat + ch) := by
  rw [State.byteIn_putPixel]
  match ch, hch with
  | 0, _ => simp [State.palEntry, palAddr]
  | 1, _ => simp [State.palEntry, palAddr]
  | 2, _ => simp [State.palEntry, palAddr]

theorem State.byteIn_putPixel_of_ne (s : State) (m : MemName) (c : Memory Byte) {i a : Nat} (p : Rgb) (al : Byte)
    (h : a / 4 ≠ i) : s.byteIn m (putPixel c i p al) a = s.byteIn m c a := by
  rw [State.byteIn_putPixel, if_neg (by omega), if_neg (by omega), if_neg (by omega), if_neg (by omega)]

/-! ## What `EXPAND` leaves in `DST` (44 R206) -/

/-- What the loop of `EXPAND` holds after the pixels below `n`. -/
structure State.ExpandHolds (s : State) (n : Nat) (x : Memory Byte) : Prop where
  colour : ∀ i ch, i < n → ch < 3 →
    s.byteIn .dst x (4 * i + ch) = s.memRead .pal (3 * (getnib (s.memRead .img) i).toNat + ch)
  alpha : ∀ i, i < n → s.byteIn .dst x (4 * i + 3) = 0xFF
  rest : ∀ a, 4 * n ≤ a → s.byteIn .dst x a = s.memRead .dst a

theorem State.ExpandHolds.succ {s : State} {n : Nat} {x : Memory Byte} (h : s.ExpandHolds n x) :
    s.ExpandHolds (n + 1) (putPixel x n (s.palEntry (getnib (s.memRead .img) n)) Config.opaqueAlpha) := by
  refine ⟨fun i ch hi hch => ?colour, fun i hi => ?alpha, fun a ha => ?rest⟩
  case colour =>
    rcases Nat.lt_succ_iff_lt_or_eq.mp hi with hlt | rfl
    · exact (s.byteIn_putPixel_of_ne .dst x _ _ (by omega)).trans (h.colour i ch hlt hch)
    · exact s.byteIn_putPixel_palEntry .dst x i _ _ hch
  case alpha =>
    rcases Nat.lt_succ_iff_lt_or_eq.mp hi with hlt | rfl
    · exact (s.byteIn_putPixel_of_ne .dst x _ _ (by omega)).trans (h.alpha i hlt)
    · exact s.byteIn_putPixel_alpha .dst x i _ _
  case rest => exact (s.byteIn_putPixel_of_ne .dst x _ _ (by omega)).trans (h.rest a (by omega))

theorem State.expandDst_holds (s : State) (n : Nat) : s.ExpandHolds n (s.expandDst n) :=
  loop_ind s.ExpandHolds n
    ⟨fun _ _ hi => absurd hi (Nat.not_lt_zero _), fun _ hi => absurd hi (Nat.not_lt_zero _), fun _ _ => rfl⟩
    fun _ _ _ hx => hx.succ

/-- What `DST` reads after `EXPAND`. -/
theorem exec_expand_reads {s t : State} (h : exec .expand s = .next t) :
    (∀ i, i < s.numpix.toNat →
      (∀ c, c < 3 → t.memRead .dst (4 * i + c) =
        s.memRead .pal (3 * (getnib (s.memRead .img) i).toNat + c)) ∧
      t.memRead .dst (4 * i + 3) = 0xFF) ∧
    ∀ a, 4 * s.numpix.toNat ≤ a → t.memRead .dst a = s.memRead .dst a := by
  obtain rfl := Host.Outcome.next.inj ((exec_expand (fits_of_exec_next h rfl)).symm.trans h)
  obtain ⟨hcolour, halpha, hrest⟩ := s.expandDst_holds s.numpix.toNat
  exact ⟨fun i hi => ⟨fun c hc => (State.memRead_dst_goto ..).trans (hcolour i c hi hc),
      (State.memRead_dst_goto ..).trans (halpha i hi)⟩,
    fun a ha => (State.memRead_dst_goto ..).trans (hrest a ha)⟩

/-- Settles O40: pass `i` writes the four bytes of pixel `i` alone and reads none of `DST`, so each pixel keeps what
its pass looked up. -/
theorem expandLooksUpEveryPixelWithAlpha255 : Obligations.ExpandLooksUpEveryPixelWithAlpha255 := by
  intro s hn
  exact ⟨_, exec_expand hn, rfl, exec_expand_reads (exec_expand hn)⟩

end Sys2Proof.Machine


/-! Proofs about every instruction: what it leaves, which registers and memories it writes, where control goes
(20 R60; 10 R24 to R36; 40 R125). -/

namespace Sys2Proof.Machine

/-! ## The state an instruction leaves -/

/-- What `ARGCHK` leaves, by what it finds wrong (40 R123). -/
def State.afterArgchk (s : State) : Option (BitVec 4) → State
  | some info => s.raise 1 info
  | none => s.goto (if s.op = 1 then PhaseCode.copy else PhaseCode.expand)

/-- The state that `exec` answers where it answers one: the equations of `exec` as one function. -/
def State.after (s : State) : Instr → State
  | .nop => s.accept State.setDone
  | .quantize => s.accept fun s => s.start 1
  | .render => s.accept fun s => s.start 2
  | .idle => s
  | .argchk => s.afterArgchk (argError Config.maxPix s.numpix.toNat)
  | .copy => { s with wrk := s.copyWrk s.numpix.toNat }.goto PhaseCode.seed
  | .seed => ({ s with wrk := s.seedWrk s.numpix.toNat, iter := ⟨0, false⟩ }.dropDraws s.numpix.toNat).goto
      PhaseCode.clrcent
  | .clrcent => { s with cent := Vector.replicate 16 Rgb.black }.goto PhaseCode.clracc
  | .clracc => { s with acc := Vector.replicate 16 Acc.zero }.goto PhaseCode.accum
  | .accum => { s with acc := s.accumAcc s.numpix.toNat }.goto PhaseCode.mean
  | .mean => { s with cent := Vector.ofFn fun k : Fin 16 => meanEntry s.acc[k] s.cent[k] }.goto PhaseCode.assign
  | .assign => { s with
      wrk := (s.assignAll s.numpix.toNat).wrk, changed := (s.assignAll s.numpix.toNat).changed,
      best := (s.assignAll s.numpix.toNat).best, bestd := (s.assignAll s.numpix.toNat).bestd }.goto
        PhaseCode.roundend
  | .roundend => if s.changed = false then { s with iter := ⟨s.iter.rounds + 1, true⟩ }.goto PhaseCode.palout
      else { s with iter := ⟨s.iter.rounds + 1, s.iter.conv⟩ }.goto
        (if s.iter.rounds + 1 = Config.maxRounds then PhaseCode.palout else PhaseCode.clracc)
  | .palout => { s with pal := s.paloutPal }.goto PhaseCode.pack
  | .pack => { s with img := s.packImg s.numpix.toNat }.goto PhaseCode.luma
  | .luma => { s with
      lum := Vector.ofFn fun k : Fin 16 => BitVec.ofNat 18 (luma1000 (s.palEntry (BitVec.ofNat 4 k.val))) }.goto
        PhaseCode.darkest
  | .darkest => { s with dark := darkest s.lum }.goto PhaseCode.blackswap
  | .blackswap => { s with pal := s.blackswapPal }.goto PhaseCode.lutgen
  | .lutgen => { s with lut := Vector.ofFn fun b : Fin 256 => lutbyte s.dark (BitVec.ofNat 8 b.val) }.goto
      PhaseCode.relabel
  | .relabel => { s with img := s.relabelImg s.numpix.toNat }.goto PhaseCode.finish
  | .expand => { s with dst := s.expandDst s.numpix.toNat }.goto PhaseCode.finish
  | .finish => s.endBusy.goto PhaseCode.idle

/-- What ties `State.after` to the model. -/
theorem exec_eq_after {i : Instr} {s : State} (h : usesImage i = true → s.numpix.toNat ≤ Config.maxPix) :
    exec i s = .next (s.after i) := by
  cases i
  case argchk =>
    rw [State.after]
    cases harg : argError Config.maxPix s.numpix.toNat with
    | some info => exact exec_argchk_error harg
    | none => exact exec_argchk_ok harg
  case copy => exact exec_copy (h rfl)
  case seed => exact exec_seed (h rfl)
  case accum => exact exec_accum (h rfl)
  case assign => exact exec_assign (h rfl)
  case roundend => exact exec_roundend s
  case pack => exact exec_pack (h rfl)
  case relabel => exact exec_relabel (h rfl)
  case expand => exact exec_expand (h rfl)
  all_goals rfl

theorem eq_after_of_exec {i : Instr} {s t : State} (h : exec i s = .next t) : t = s.after i :=
  (Host.Outcome.next.inj ((exec_eq_after (fits_of_exec_next h)).symm.trans h)).symm

/-! ## Which instruction writes what -/

/-- Settles O42: each instruction leaves a state with the fields it names replaced. -/
theorem eachMemoryIsWrittenOnlyByItsPhases : Obligations.EachMemoryIsWrittenOnlyByItsPhases := by
  intro s t i h
  obtain rfl := eq_after_of_exec h
  cases i
  case nop | quantize | render | argchk | roundend =>
    simp only [State.after, State.accept, State.afterArgchk]
    split <;> simp
  all_goals simp [State.after]

/-- Settles O43: each instruction leaves a state with the fields it names replaced. -/
theorem eachRegisterIsWrittenOnlyByItsInstructions : Obligations.EachRegisterIsWrittenOnlyByItsInstructions := by
  intro s t i h
  obtain rfl := eq_after_of_exec h
  cases i
  case nop | quantize | render | argchk | roundend =>
    simp only [State.after, State.accept, State.afterArgchk]
    split <;> simp
  all_goals simp [State.after]

/-! ## The same, field by field -/

theorem exec_numpix {i : Instr} {s t : State} (h : exec i s = .next t) : t.numpix = s.numpix :=
  (eachRegisterIsWrittenOnlyByItsInstructions s t i h).1

theorem exec_status {i : Instr} {s t : State} (h : exec i s = .next t)
    (hi : i ∉ [Instr.nop, .quantize, .render, .argchk, .finish]) : t.status = s.status := by
  obtain ⟨-, -, -, -, -, -, -, -, -, -, -, hstatus⟩ := eachRegisterIsWrittenOnlyByItsInstructions s t i h
  exact hstatus hi

theorem exec_iter {i : Instr} {s t : State} (h : exec i s = .next t) (hi : i ∉ [Instr.seed, .roundend]) :
    t.iter = s.iter := by
  obtain ⟨-, hiter, -⟩ := eachRegisterIsWrittenOnlyByItsInstructions s t i h
  exact hiter hi

theorem exec_op {i : Instr} {s t : State} (h : exec i s = .next t) (hi : i ∉ [Instr.quantize, .render]) :
    t.op = s.op := by
  obtain ⟨-, -, -, -, hop, -⟩ := eachRegisterIsWrittenOnlyByItsInstructions s t i h
  exact hop hi

theorem exec_dark {i : Instr} {s t : State} (h : exec i s = .next t) (hi : i ≠ .darkest) : t.dark = s.dark := by
  obtain ⟨-, -, hdark, -⟩ := eachRegisterIsWrittenOnlyByItsInstructions s t i h
  exact hdark hi

theorem exec_cent {i : Instr} {s t : State} (h : exec i s = .next t) (hi : i ∉ [Instr.clrcent, .mean]) :
    t.cent = s.cent := by
  obtain ⟨-, -, -, -, -, hcent, -⟩ := eachRegisterIsWrittenOnlyByItsInstructions s t i h
  exact hcent hi

theorem exec_script {i : Instr} {s t : State} (h : exec i s = .next t) : t.script = s.script := by
  obtain ⟨-, -, -, -, -, hscript, -⟩ := eachMemoryIsWrittenOnlyByItsPhases s t i h
  exact hscript

theorem exec_draw {i : Instr} {s t : State} (h : exec i s = .next t) (hi : i ≠ .seed) (j : Nat) :
    t.draw j = s.draw j := by
  obtain ⟨-, -, -, -, -, -, -, -, -, hdraws⟩ := eachMemoryIsWrittenOnlyByItsPhases s t i h
  obtain ⟨hdraws, hfresh⟩ := hdraws hi
  rw [State.draw, State.draw, hdraws, hfresh]

theorem exec_wrkRead {i : Instr} {s t : State} (h : exec i s = .next t) (hi : i ∉ [Instr.copy, .seed, .assign])
    (j : Nat) : t.wrkRead j = s.wrkRead j := by
  obtain ⟨-, hwrk, -, -, -, -, -, -, hepoch, -⟩ := eachMemoryIsWrittenOnlyByItsPhases s t i h
  exact State.wrkRead_of_wrk hepoch (hwrk hi) j

/-- The instructions that write a byte memory (20 R60). -/
def writers : MemName → List Instr
  | .src => []
  | .img => [.pack, .relabel]
  | .pal => [.palout, .blackswap]
  | .dst => [.expand]

theorem exec_mem {i : Instr} {s t : State} (h : exec i s = .next t) {m : MemName} (hi : i ∉ writers m) :
    t.mem m = s.mem m := by
  obtain ⟨hsrc, -, himg, hpal, hdst, -⟩ := eachMemoryIsWrittenOnlyByItsPhases s t i h
  cases m with
  | src => exact hsrc
  | img => exact himg hi
  | pal => exact hpal hi
  | dst => exact hdst (by simpa [writers] using hi)

theorem exec_memRead {i : Instr} {s t : State} (h : exec i s = .next t) {m : MemName} (hi : i ∉ writers m) (a : Nat) :
    t.memRead m a = s.memRead m a := by
  obtain ⟨-, -, -, -, -, -, -, hepoch, -⟩ := eachMemoryIsWrittenOnlyByItsPhases s t i h
  exact State.memRead_congr m hepoch (exec_mem h hi) a

theorem exec_palEntry {i : Instr} {s t : State} (h : exec i s = .next t) (hi : i ∉ writers .pal) (k : Label) :
    t.palEntry k = s.palEntry k := by
  simp only [State.palEntry, exec_memRead h hi]

/-! ## The phase graph (40 R125) -/

theorem format_of_encode_uop {i : Instr} {c : PhCode} (h : encode i = .uop c) : i.format = .uop := by
  cases i <;> first | rfl | cases h

/-- Settles O41: `ARGCHK` and `ROUNDEND` branch as the graph does, every other phase has one successor. -/
theorem phasesFollowThePhaseGraph : Obligations.PhasesFollowThePhaseGraph := by
  intro s t i hformat hcode h
  obtain rfl := eq_after_of_exec h
  cases i
  case nop | quantize | render => cases hformat
  case idle => exact (CodeWord.uop.inj hcode).symm
  case argchk =>
    rw [State.after]
    cases harg : argError Config.maxPix s.numpix.toNat with
    | some info =>
      have hillegal : argError Config.maxPix s.numpix.toNat ≠ none := by simp [harg]
      rw [Ne, argError_eq_none_iff] at hillegal
      exact (if_pos (by omega)).symm
    | none =>
      have hlegal := (argError_eq_none_iff _ _).mp harg
      exact (if_neg (by omega)).symm
  case roundend =>
    rw [State.after, nextPhase]
    cases s.changed <;> simp
  all_goals rfl

theorem exec_ph {i : Instr} {s t : State} (h : exec i s = .next t) (hcode : encode i = .uop s.ph) :
    t.ph = nextPhase s i :=
  phasesFollowThePhaseGraph s t i (format_of_encode_uop hcode) hcode h

end Sys2Proof.Machine

/-! Proofs about the invariant: it holds at reset and every step keeps it (10 R48; 40 R124, R125). -/

namespace Sys2Proof.Machine

/-! ## The memories keep their form (20 R60, R68) -/

/-- The part of the invariant that speaks of the memories. -/
structure State.MemoriesOk (s : State) : Prop where
  src : s.src.Ok (memSize .src)
  wrk : s.wrk.Ok Config.maxPix
  img : s.img.Ok (memSize .img)
  pal : s.pal.Ok (memSize .pal)
  dst : s.dst.Ok (memSize .dst)

theorem Inv.memories {s : State} (h : Inv s) : s.MemoriesOk := ⟨h.src, h.wrk, h.img, h.pal, h.dst⟩

theorem State.blackswapPal_ok {s : State} (h : s.pal.Ok (memSize .pal)) : s.blackswapPal.Ok (memSize .pal) := by
  rw [State.blackswapPal]
  split
  case isTrue => exact blacken_ok _ h
  case isFalse => exact State.swapEntries_ok _ (blacken_ok _ h)

theorem exec_keeps_memories {i : Instr} {s t : State} (h : exec i s = .next t) (hs : s.MemoriesOk) :
    t.MemoriesOk := by
  obtain ⟨hsrc, hwrk, himg, hpal, hdst, -⟩ := eachMemoryIsWrittenOnlyByItsPhases s t i h
  have hfits := fits_of_exec_next h
  have hhalf (hn : s.numpix.toNat ≤ Config.maxPix) : s.numpix.toNat / 2 ≤ memSize .img := Nat.div_le_div_right hn
  obtain rfl := eq_after_of_exec h
  cases i
  case copy => exact { hs with wrk := State.copyWrk_ok hs.wrk (hfits rfl) }
  case seed => exact { hs with wrk := State.seedWrk_ok hs.wrk (hfits rfl) }
  case assign => exact { hs with wrk := State.assignAll_ok hs.wrk (hfits rfl) }
  case palout =>
    refine { hs with pal := ?_ }
    simp only [State.after, State.goto_pal]
    exact State.paloutPal_ok hs.pal
  case blackswap => exact { hs with pal := State.blackswapPal_ok hs.pal }
  case pack => exact { hs with img := State.packImg_ok hs.img (hhalf (hfits rfl)) }
  case relabel => exact { hs with img := State.relabelImg_ok hs.img (hhalf (hfits rfl)) }
  case expand => exact { hs with dst := State.expandDst_ok hs.dst (Nat.mul_le_mul_left 4 (hfits rfl)) }
  all_goals
    exact ⟨hsrc ▸ hs.src, hwrk (by decide) ▸ hs.wrk, himg (by decide) ▸ hs.img, hpal (by decide) ▸ hs.pal,
      hdst (by decide) ▸ hs.dst⟩

/-! ## The invariant by what the engine does: idle, in `ARGCHK`, or running -/

/-- The part of the invariant that speaks of `STATUS` alone. -/
structure StatusFits (x : Status) : Prop where
  oneFlag : (x.busy && x.done) = false ∧ (x.busy && x.err) = false ∧ (x.done && x.err) = false
  noError : x.err = false → x.errCode = 0 ∧ x.errInfo = 0
  error : x.err = true → (x.errCode, x.errInfo) ∈ errorCodes

theorem Inv.statusFits {s : State} (h : Inv s) : StatusFits s.status := ⟨h.oneFlag, h.noError, h.error⟩

theorem StatusFits.ofFlags {busy done : Bool} (h : (busy && done) = false) :
    StatusFits ⟨busy, done, false, 0, 0⟩ :=
  ⟨⟨h, Bool.and_false _, Bool.and_false _⟩, fun _ => ⟨rfl, rfl⟩, nofun⟩

theorem StatusFits.ofError {code info : BitVec 4} (h : (code, info) ∈ errorCodes) :
    StatusFits ⟨false, false, true, code, info⟩ :=
  ⟨⟨rfl, rfl, rfl⟩, nofun, fun _ => h⟩

/-- The phase, the command and the count of rounds of a command that has passed `ARGCHK` (30 R100; 41 R154). -/
structure PhaseFits (p : PhCode) (o : BitVec 2) (r : BitVec 5) : Prop where
  running : 2 ≤ p.toNat ∧ p.toNat ≤ 18
  op : o = 1 ∨ o = 2
  quantize : p.toNat ≤ 16 → o = 1
  render : p = PhaseCode.expand → o = 2
  rounds : r.toNat ≤ 24
  loop : 4 ≤ p.toNat → p.toNat ≤ 9 → r.toNat ≤ 23
  some : (10 ≤ p.toNat ∧ p.toNat ≤ 16) ∨ (p = PhaseCode.finish ∧ o = 1) → 1 ≤ r.toNat

/-- The phases in which slot 0 is black (43 R191). -/
def State.BlackFits (s : State) : Prop :=
  s.ph = PhaseCode.lutgen ∨ s.ph = PhaseCode.relabel ∨ (s.ph = PhaseCode.finish ∧ s.op = 1) → s.SlotZeroBlack

theorem Inv.of_idle {s : State} (hph : s.ph = PhaseCode.idle) (hbusy : s.status.busy = false)
    (hstatus : StatusFits s.status) (hrounds : s.iter.rounds.toNat ≤ 24) (hmem : s.MemoriesOk) : Inv s where
  oneFlag := hstatus.oneFlag
  idle := iff_of_true hph hbusy
  phase := by simp [hph]
  noError := hstatus.noError
  error := hstatus.error
  rounds := hrounds
  loopRounds := by simp [hph]
  someRound := by simp [hph]
  numpix := by simp [hbusy]
  op := by simp [hbusy]
  quantizePhases := by simp [hph]
  renderPhase := by simp [hph]
  black := by simp [hph]
  src := hmem.src
  wrk := hmem.wrk
  img := hmem.img
  pal := hmem.pal
  dst := hmem.dst

theorem Inv.of_argchk {s : State} (hph : s.ph = PhaseCode.argchk) (hstatus : s.status = ⟨true, false, false, 0, 0⟩)
    (hop : s.op = 1 ∨ s.op = 2) (hrounds : s.iter.rounds.toNat ≤ 24) (hmem : s.MemoriesOk) : Inv s where
  oneFlag := by simp [hstatus]
  idle := by simp [hph, hstatus]
  phase := by simp [hph]
  noError := by simp [hstatus]
  error := by simp [hstatus]
  rounds := hrounds
  loopRounds := by simp [hph]
  someRound := by simp [hph]
  numpix := by simp [hph]
  op := fun _ => hop
  quantizePhases := by simp [hph]
  renderPhase := by simp [hph]
  black := by simp [hph]
  src := hmem.src
  wrk := hmem.wrk
  img := hmem.img
  pal := hmem.pal
  dst := hmem.dst

theorem Inv.of_running {s : State} (hstatus : s.status = ⟨true, false, false, 0, 0⟩)
    (hlegal : LegalNumpix s.numpix.toNat) (hfits : PhaseFits s.ph s.op s.iter.rounds) (hblack : s.BlackFits)
    (hmem : s.MemoriesOk) : Inv s where
  oneFlag := by simp [hstatus]
  idle := by
    have hrun := hfits.running.1
    refine iff_of_false (fun hph => ?_) (by simp [hstatus])
    rw [hph] at hrun
    exact absurd hrun (by decide)
  phase := hfits.running.2
  noError := by simp [hstatus]
  error := by simp [hstatus]
  rounds := hfits.rounds
  loopRounds := hfits.loop
  someRound := hfits.some
  numpix := fun _ _ => hlegal
  op := fun _ => hfits.op
  quantizePhases := fun _ => hfits.quantize
  renderPhase := hfits.render
  black := hblack
  src := hmem.src
  wrk := hmem.wrk
  img := hmem.img
  pal := hmem.pal
  dst := hmem.dst

/-! ## What the invariant says of a running command -/

theorem Inv.busy_of_ph {s : State} (h : Inv s) {p : PhCode} (hph : s.ph = p) (hp : p ≠ PhaseCode.idle) :
    s.status.busy = true := by
  rw [← Bool.not_eq_false, ← h.idle, hph]
  exact hp

/-- While `BUSY = 1` no other flag is set and no code stands (10 R48 (a), (c)). -/
theorem Inv.status_of_busy {s : State} (h : Inv s) (hbusy : s.status.busy = true) :
    s.status = ⟨true, false, false, 0, 0⟩ := by
  obtain ⟨hdone, herr, -⟩ := h.oneFlag
  have hcodes := h.noError
  obtain ⟨⟨busy, done, err, errCode, errInfo⟩⟩ := s
  simp_all

theorem Inv.phaseFits {s : State} (h : Inv s) (hbusy : s.status.busy = true) (hrun : 2 ≤ s.ph.toNat) :
    PhaseFits s.ph s.op s.iter.rounds :=
  ⟨⟨hrun, h.phase⟩, h.op hbusy, h.quantizePhases hrun, h.renderPhase, h.rounds, h.loopRounds, h.someRound⟩

/-- The invariant does not speak of the host's events and replies, nor of the draws and the free values to come. -/
theorem Inv.withHost {s : State} (h : Inv s) (script : List HostEvent) (replies : List Reply) (fresh : Nat) :
    Inv { s with script := script, replies := replies, fresh := fresh } := by
  obtain ⟨⟩ := h
  constructor <;> assumption

/-! ## A phase of a running command (41 R154; 43 R191) -/

theorem PhaseFits.ofQuantize {p : PhCode} {r : BitVec 5} (hp : 2 ≤ p.toNat ∧ p.toNat ≤ 18 ∧ p ≠ PhaseCode.expand)
    (hrounds : r.toNat ≤ 24) (hloop : 4 ≤ p.toNat → p.toNat ≤ 9 → r.toNat ≤ 23)
    (hsome : 10 ≤ p.toNat → 1 ≤ r.toNat) : PhaseFits p 1 r := by
  obtain ⟨htwo, hlast, hne⟩ := hp
  refine ⟨⟨htwo, hlast⟩, .inl rfl, fun _ => rfl, fun h => absurd h hne, hrounds, hloop, fun h => hsome ?_⟩
  rcases h with ⟨hten, -⟩ | ⟨rfl, -⟩
  · exact hten
  · decide

theorem PhaseFits.ofRender {p : PhCode} {r : BitVec 5} (hp : 17 ≤ p.toNat ∧ p.toNat ≤ 18)
    (hrounds : r.toNat ≤ 24) : PhaseFits p 2 r := by
  obtain ⟨hexpand, hlast⟩ := hp
  refine ⟨⟨by omega, hlast⟩, .inr rfl, by omega, fun _ => rfl, hrounds, by omega, fun h => ?_⟩
  rcases h with ⟨-, hle⟩ | ⟨-, hop⟩
  · omega
  · cases hop

theorem exec_roundend_rounds {s t : State} (h : exec .roundend s = .next t) :
    t.iter.rounds = s.iter.rounds + 1 := by
  rw [eq_after_of_exec h, State.after]
  split <;> rfl

/-- Below the cap the count does not wrap. -/
theorem exec_roundend_count {s t : State} (h : exec .roundend s = .next t) (hle : s.iter.rounds.toNat ≤ 23) :
    t.iter.rounds.toNat = s.iter.rounds.toNat + 1 := by
  have hone : (1 : BitVec 5).toNat = 1 := rfl
  rw [exec_roundend_rounds h, BitVec.toNat_add, hone, Nat.mod_eq_of_lt (by omega)]

theorem exec_keeps_phaseFits {i : Instr} {s t : State} (h : exec i s = .next t) (hcode : encode i = .uop s.ph)
    (hi : i ≠ .finish) (hs : PhaseFits s.ph s.op s.iter.rounds) : PhaseFits t.ph t.op t.iter.rounds := by
  have hiter := exec_iter h
  have hop := exec_op h
  rw [exec_ph h hcode]
  cases i
  case nop | quantize | render => cases hcode
  case finish => exact absurd rfl hi
  all_goals
    rw [← CodeWord.uop.inj hcode] at hs
    dsimp only [nextPhase]
  case idle | argchk => exact absurd hs.running.1 (by decide)
  case copy =>
    rw [hiter (by decide), hop (by decide), hs.quantize (by decide)]
    exact .ofQuantize (by decide) hs.rounds (fun h => absurd h (by decide)) fun h => absurd h (by decide)
  case seed =>
    have hzero : t.iter.rounds = 0 := by rw [eq_after_of_exec h]; rfl
    rw [hzero, hop (by decide), hs.quantize (by decide)]
    exact .ofQuantize (by decide) (by decide) (by decide) (by decide)
  case clrcent | clracc | accum | mean | assign =>
    rw [hiter (by decide), hop (by decide), hs.quantize (by decide)]
    exact .ofQuantize (by decide) hs.rounds (fun _ _ => hs.loop (by decide) (by decide)) fun h => absurd h (by decide)
  case roundend =>
    have hlast := hs.loop (by decide) (by decide)
    have hcount := exec_roundend_count h hlast
    rw [hop (by decide), hs.quantize (by decide)]
    split
    case isTrue hagain =>
      have hcap : t.iter.rounds.toNat ≠ 24 := fun heq =>
        hagain.2 ((exec_roundend_rounds h).symm.trans (BitVec.eq_of_toNat_eq heq))
      exact .ofQuantize (by decide) (by omega) (fun _ _ => by omega) fun h => absurd h (by decide)
    case isFalse => exact .ofQuantize (by decide) (by omega) (fun _ h => absurd h (by decide)) fun _ => by omega
  case palout | pack | luma | darkest | blackswap | lutgen | relabel =>
    rw [hiter (by decide), hop (by decide), hs.quantize (by decide)]
    exact .ofQuantize (by decide) hs.rounds (fun _ h => absurd h (by decide)) fun _ => hs.some (.inl (by decide))
  case expand =>
    rw [hiter (by decide), hop (by decide), hs.render rfl]
    exact .ofRender (by decide) hs.rounds

theorem exec_keeps_slotZeroBlack {i : Instr} {s t : State} (h : exec i s = .next t) (hi : i ∉ writers .pal)
    (hs : s.SlotZeroBlack) : t.SlotZeroBlack := by
  rw [State.SlotZeroBlack, exec_memRead h hi, exec_memRead h hi, exec_memRead h hi]
  exact hs

theorem exec_keeps_black {i : Instr} {s t : State} (h : exec i s = .next t) (hcode : encode i = .uop s.ph)
    (hfits : PhaseFits s.ph s.op s.iter.rounds) (hs : s.BlackFits) : t.BlackFits := by
  rw [State.BlackFits, exec_ph h hcode]
  cases i
  case nop | quantize | render => cases hcode
  case blackswap =>
    intro
    obtain ⟨u, hu, -, hblack, -⟩ := blackswapMovesBlackToSlotZero s
    rwa [Host.Outcome.next.inj (h.symm.trans hu)]
  case lutgen | relabel =>
    intro
    refine exec_keeps_slotZeroBlack h (by decide) (hs ?_)
    simp [← CodeWord.uop.inj hcode]
  case expand =>
    have hrender := hfits.render (CodeWord.uop.inj hcode).symm
    rw [exec_op h (by decide), hrender]
    exact fun h => absurd h (by simp [nextPhase])
  case argchk | roundend =>
    rw [nextPhase]
    split_ifs <;> exact fun h => absurd h (by simp)
  all_goals exact fun h => absurd h (by simp [nextPhase])

/-- A command that has passed `ARGCHK` keeps the invariant in every phase but `FINISH`. -/
theorem Inv.exec_running {i : Instr} {s t : State} (hs : Inv s) (hrun : 2 ≤ s.ph.toNat)
    (hcode : encode i = .uop s.ph) (hi : i ≠ .finish) (h : exec i s = .next t) : Inv t := by
  have hne (p : PhCode) (hp : p.toNat < 2) : s.ph ≠ p := by
    rintro rfl
    omega
  have hbusy := hs.busy_of_ph rfl (hne PhaseCode.idle (by decide))
  have hfits := hs.phaseFits hbusy hrun
  have hargchk : i ≠ .argchk := by
    rintro rfl
    exact hne PhaseCode.argchk (by decide) (CodeWord.uop.inj hcode).symm
  have hkeep : i ∉ [Instr.nop, .quantize, .render, .argchk, .finish] := by
    cases i <;> first | cases hcode | simp_all
  refine .of_running ?status ?legal (exec_keeps_phaseFits h hcode hi hfits)
    (exec_keeps_black h hcode hfits hs.black) (exec_keeps_memories h hs.memories)
  case status => rw [exec_status h hkeep, hs.status_of_busy hbusy]
  case legal =>
    rw [exec_numpix h]
    exact hs.numpix hbusy (hne PhaseCode.argchk (by decide))

/-! ## `ARGCHK`, `FINISH` and the commands -/

theorem argError_mem_errorCodes {m n : Nat} {info : BitVec 4} (h : argError m n = some info) :
    (1, info) ∈ errorCodes := by
  unfold argError at h
  split_ifs at h <;> cases h <;> decide

theorem legalNumpix_of_argError {n : Nat} (h : argError Config.maxPix n = none) : LegalNumpix n := by
  obtain ⟨hzero, hodd, hmax⟩ := (argError_eq_none_iff _ _).mp h
  exact ⟨by omega, hmax, by omega⟩

theorem Inv.exec_argchk {s t : State} (hs : Inv s) (hph : s.ph = PhaseCode.argchk) (h : exec .argchk s = .next t) :
    Inv t := by
  have hbusy := hs.busy_of_ph hph (by decide)
  have hmem := exec_keeps_memories h hs.memories
  obtain rfl := eq_after_of_exec h
  rw [State.after] at hmem ⊢
  cases harg : argError Config.maxPix s.numpix.toNat with
  | some info =>
    rw [harg] at hmem
    exact .of_idle rfl rfl (.ofError (argError_mem_errorCodes harg)) hs.rounds hmem
  | none =>
    rw [harg] at hmem
    refine .of_running (hs.status_of_busy hbusy) (legalNumpix_of_argError harg) ?fits ?black hmem
    case fits =>
      simp only [State.afterArgchk, State.goto_ph, State.goto_op, State.goto_iter]
      rcases hs.op hbusy with hop | hop
      · rw [hop, if_pos rfl]
        exact .ofQuantize (by decide) hs.rounds (fun h => absurd h (by decide)) fun h => absurd h (by decide)
      · rw [hop, if_neg (by decide)]
        exact .ofRender (by decide) hs.rounds
    case black =>
      rw [State.BlackFits, State.afterArgchk, State.goto_ph]
      split_ifs <;> exact fun h => absurd h (by simp)

theorem Inv.exec_finish {s t : State} (hs : Inv s) (hph : s.ph = PhaseCode.finish) (h : exec .finish s = .next t) :
    Inv t := by
  have hmem := exec_keeps_memories h hs.memories
  obtain rfl := eq_after_of_exec h
  refine .of_idle rfl rfl ?status hs.rounds hmem
  have hstatus := hs.status_of_busy (hs.busy_of_ph hph (by decide))
  rw [State.after, State.goto_status, State.endBusy_status, hstatus]
  exact .ofFlags rfl

/-- The word a host writes to `CMD` is accepted only while the engine is idle (40 R120). -/
theorem Inv.accept {s : State} (hs : Inv s) {act : State → State}
    (h : s.status.busy = false → Inv (act s.clearFlags)) : Inv (s.accept act) := by
  cases hbusy : s.status.busy with
  | true => rwa [State.accept_busy act hbusy]
  | false =>
    rw [State.accept_idle act hbusy]
    exact h hbusy

theorem Inv.start {s : State} (hs : Inv s) {o : BitVec 2} (ho : o = 1 ∨ o = 2) :
    Inv (s.clearFlags.start o) :=
  .of_argchk rfl rfl ho hs.rounds ⟨hs.src, hs.wrk, hs.img, hs.pal, hs.dst⟩

theorem Inv.nop {s : State} (hs : Inv s) (hbusy : s.status.busy = false) : Inv s.clearFlags.setDone := by
  refine .of_idle (hs.idle.mpr hbusy) hbusy ?status hs.rounds ⟨hs.src, hs.wrk, hs.img, hs.pal, hs.dst⟩
  rw [State.setDone_clearFlags, hbusy]
  exact .ofFlags rfl

theorem Inv.illegal {s : State} (hs : Inv s) : Inv s.clearFlags.raiseIllegalCommand :=
  .of_idle rfl rfl (.ofError (by decide)) hs.rounds ⟨hs.src, hs.wrk, hs.img, hs.pal, hs.dst⟩

/-! ## The engine's turn -/

theorem Inv.exec_phase {s : State} (hs : Inv s) {i : Instr} (hcode : encode i = .uop s.ph) :
    ∃ t, exec i s = .next t ∧ Inv t := by
  have hph {p : PhCode} (h : CodeWord.uop p = .uop s.ph) : s.ph = p := (CodeWord.uop.inj h).symm
  by_cases hrun : 2 ≤ s.ph.toNat
  · have hne (p : PhCode) (hp : p.toNat < 2) : s.ph ≠ p := by
      rintro rfl
      omega
    have hbusy := hs.busy_of_ph rfl (hne PhaseCode.idle (by decide))
    have hlegal := hs.numpix hbusy (hne PhaseCode.argchk (by decide))
    obtain ⟨t, ht⟩ := exec_answers i s fun _ => hlegal.2.1
    refine ⟨t, ht, ?_⟩
    by_cases hi : i = .finish
    · subst hi
      exact hs.exec_finish (hph hcode) ht
    · exact hs.exec_running hrun hcode hi ht
  · cases i
    case idle => exact ⟨s, rfl, hs⟩
    case argchk =>
      obtain ⟨t, ht⟩ := exec_answers .argchk s nofun
      exact ⟨t, ht, hs.exec_argchk (hph hcode) ht⟩
    case nop | quantize | render => cases hcode
    all_goals
      rw [hph hcode] at hrun
      exact absurd (by decide) hrun

theorem Inv.engineTurn {s : State} (hs : Inv s) : ∃ i t, fetchPhase s = .run i s ∧ exec i s = .next t ∧ Inv t := by
  obtain ⟨i, hi⟩ := decodeUop_of_le hs.phase
  obtain ⟨t, ht, hinv⟩ := hs.exec_phase (encode_of_decodeUop hi)
  exact ⟨i, t, fetchPhase_of_ok hi, ht, hinv⟩

/-! ## The host's turn -/

theorem Inv.command {s : State} (hs : Inv s) {rest : List HostEvent} {w : Reg32}
    (h : s.script = .txn (.regWrite .w32 0x00 w) :: rest) : ∃ t, step s = .next t ∧ Inv t := by
  have hhost := hs.withHost rest (.written :: s.replies) s.fresh
  rw [step_cmd h, decodeCmd_eq]
  split_ifs
  · exact ⟨_, exec_nop _, hhost.accept hhost.nop⟩
  · exact ⟨_, exec_quantize _, hhost.accept fun _ => hhost.start (.inl rfl)⟩
  · exact ⟨_, exec_render _, hhost.accept fun _ => hhost.start (.inr rfl)⟩
  · exact ⟨_, rfl, hhost.accept fun _ => hhost.illegal⟩

/-- What reset leaves in the registers, whether or not a command was running (10 R46; 70 R245). -/
theorem State.takeReset_regs (s : State) :
    s.takeReset.status = ⟨false, false, false, 0, 0⟩ ∧ s.takeReset.numpix = 0 ∧ s.takeReset.iter = ⟨0, false⟩ ∧
      s.takeReset.dark = 0 ∧ s.takeReset.ph = PhaseCode.idle ∧ s.takeReset.script = s.script := by
  simp only [State.takeReset, State.resetBusy]
  split_ifs <;> exact ⟨rfl, rfl, rfl, rfl, rfl, rfl⟩

theorem State.MemoriesOk.takeReset {s : State} (h : s.MemoriesOk) : s.takeReset.MemoriesOk := by
  simp only [State.takeReset, State.resetBusy]
  split_ifs
  case pos =>
    refine ⟨h.src, Memory.nil_ok _, scramble_ok _ h.img s.imgBytes_le, ?pal, h.dst⟩
    dsimp only
    exact scramble_ok _ h.pal (Nat.le_refl _)
  case pos => exact ⟨h.src, Memory.nil_ok _, h.img, h.pal, scramble_ok _ h.dst s.dstBytes_le⟩
  case neg => exact ⟨h.src, Memory.nil_ok _, h.img, h.pal, h.dst⟩
  case neg => exact ⟨Memory.nil_ok _, Memory.nil_ok _, Memory.nil_ok _, Memory.nil_ok _, Memory.nil_ok _⟩

theorem Inv.takeReset {s : State} (hs : Inv s) : Inv s.takeReset := by
  obtain ⟨hstatus, -, hiter, -, hph, -⟩ := s.takeReset_regs
  refine .of_idle hph (by rw [hstatus]) ?status ?rounds hs.memories.takeReset
  case status =>
    rw [hstatus]
    exact .ofFlags rfl
  case rounds =>
    rw [hiter]
    decide

/-- Settles O56: at reset the engine is idle and no memory lists anything. -/
theorem resetMeetsTheInvariant : Obligations.ResetMeetsTheInvariant :=
  .of_idle rfl rfl (.ofFlags rfl) (by decide)
    ⟨Memory.nil_ok _, Memory.nil_ok _, Memory.nil_ok _, Memory.nil_ok _, Memory.nil_ok _⟩

/-- A transaction other than a write of `CMD` and reset keeps the registers the invariant speaks of; what it writes
it writes while the engine is idle (20 R65; 40 R126). -/
theorem Inv.hostTxn {s : State} (hs : Inv s) {x : Txn} (hc : ∀ w, x ≠ .regWrite .w32 0x00 w) (hr : x ≠ .resetInput) :
    ∃ t, hostTxn x s = .settled t ∧ Inv t := by
  obtain ⟨numpix, replies, fresh, src, img, pal, dst, ht, hkeep, hsrc, himg, hpal, hdst⟩ := hostTxn_cases hc hr
  refine ⟨_, ht, ?_⟩
  cases hbusy : s.status.busy with
  | true =>
    obtain ⟨rfl, rfl, rfl, rfl, rfl⟩ := hkeep hbusy
    exact hs.withHost s.script replies fresh
  | false =>
    exact .of_idle (hs.idle.mpr hbusy) hbusy hs.statusFits hs.rounds
      ⟨hsrc hs.src, hs.wrk, himg hs.img, hpal hs.pal, hdst hs.dst⟩

/-- Settles O57: by the event that stands first. The engine's turn is one phase; of the host's events a word written
to `CMD` and reset change what the engine does, the others cannot. -/
theorem everyStepIsTakenAndKeepsTheInvariant : Obligations.EveryStepIsTakenAndKeepsTheInvariant := by
  intro s hs
  have hrest (rest : List HostEvent) := hs.withHost rest s.replies s.fresh
  match hscript : s.script with
  | [] =>
    obtain ⟨i, t, hfetch, ht, hinv⟩ := hs.engineTurn
    exact ⟨t, (step_of_run ((fetchNext_nil hscript).trans hfetch)).trans ht, hinv⟩
  | .engine :: rest =>
    obtain ⟨i, t, hfetch, ht, hinv⟩ := (hrest rest).engineTurn
    exact ⟨t, (step_of_run ((fetchNext_engine hscript).trans hfetch)).trans ht, hinv⟩
  | .wait :: rest => exact ⟨_, step_of_settled (fetchNext_wait hscript), hs.withHost _ _ _⟩
  | .txn x :: rest =>
    by_cases hreset : x = .resetInput
    · subst hreset
      exact ⟨_, step_of_settled (fetchNext_txn hscript), (hrest rest).takeReset⟩
    by_cases hcmd : ∃ w, x = .regWrite .w32 0x00 w
    · obtain ⟨w, rfl⟩ := hcmd
      exact hs.command hscript
    · obtain ⟨t, ht, hinv⟩ := (hrest rest).hostTxn (not_exists.mp hcmd) hreset
      exact ⟨t, step_of_settled ((fetchNext_txn hscript).trans ht), hinv⟩

end Sys2Proof.Machine

/-! Proofs about the encodings, command acceptance and error entry (30 R91 to R101; 40 R120 to R123; 60 R221). -/

namespace Sys2Proof.Machine

/-! ## The decoder (30 R91 to R101) -/

/-- Settles O1: each word stands in its table, or in none. -/
theorem specWordsDecode : Obligations.SpecWordsDecode :=
  ⟨rfl, rfl, rfl, rfl, rfl, rfl, rfl, rfl, rfl, rfl⟩

/-- The two fields of a command word make up the word (30 R92). -/
theorem illegalWord_iff (w : Reg32) : IllegalWord w ↔ 2 < w.toNat := by
  have hw := w.isLt
  rw [IllegalWord, Ne, ← BitVec.toNat_inj, BitVec.extractLsb'_toNat, BitVec.extractLsb'_toNat,
    Nat.shiftRight_eq_div_pow]
  simp
  omega

/-- Settles O3: a word other than 0, 1 and 2 is above 2. -/
theorem everyCommandWordDecodesOrIsIllegal : Obligations.EveryCommandWordDecodesOrIsIllegal := by
  intro w
  rw [decodeCmd_eq, illegalWord_iff]
  by_cases hzero : w = 0
  · exact .inl ⟨if_pos hzero, hzero⟩
  by_cases hone : w = 1
  · exact .inr (.inl ⟨by rw [if_neg hzero, if_pos hone], hone⟩)
  by_cases htwo : w = 2
  · exact .inr (.inr (.inl ⟨by rw [if_neg hzero, if_neg hone, if_pos htwo], htwo⟩))
  · refine .inr (.inr (.inr ⟨by rw [if_neg hzero, if_neg hone, if_neg htwo], ?_⟩))
    rw [← BitVec.toNat_inj] at hzero hone htwo
    simp at hzero hone htwo
    omega

theorem decodeCmd_of_illegal {w : Reg32} (h : IllegalWord w) : decodeCmd w = .error .illegalCommand := by
  rcases everyCommandWordDecodesOrIsIllegal w with ⟨-, rfl⟩ | ⟨-, rfl⟩ | ⟨-, rfl⟩ | ⟨hdecode, -⟩
  case inr.inr.inr => exact hdecode
  all_goals
    rw [illegalWord_iff] at h
    exact absurd h (by decide)

theorem decode_encode (i : Instr) : decode (encode i) = .ok i := by cases i <;> rfl

theorem encode_of_decodeCmd {w : Reg32} {i : Instr} (h : decodeCmd w = .ok i) : encode i = .cmd w := by
  rcases everyCommandWordDecodesOrIsIllegal w with ⟨hw, rfl⟩ | ⟨hw, rfl⟩ | ⟨hw, rfl⟩ | ⟨hw, -⟩ <;>
    cases hw.symm.trans h <;> rfl

/-- Settles O2: a word that decodes is the encoding of what it decodes to, and every encoding decodes. -/
theorem decodeIsInverseOfEncode : Obligations.DecodeIsInverseOfEncode := by
  intro c i
  constructor
  · intro h
    cases c with
    | cmd w => exact encode_of_decodeCmd h
    | uop p => exact encode_of_decodeUop h
  · rintro rfl
    exact decode_encode i

/-- Settles O4: the codes that decode are those up to 0x12, and the only rejection of a code is as reserved. -/
theorem reservedPhaseCodesDoNotDecode : Obligations.ReservedPhaseCodesDoNotDecode := by
  intro c
  cases hdecode : decodeUop c with
  | ok i =>
    have hle := le_of_decodeUop hdecode
    have hcode := encode_of_decodeUop hdecode
    exact ⟨iff_of_false nofun (Nat.not_lt.mpr hle), iff_of_true hle ⟨i, rfl, format_of_encode_uop hcode, hcode⟩⟩
  | error e =>
    have hlt : 18 < c.toNat := by
      by_contra hle
      obtain ⟨i, hi⟩ := decodeUop_of_le (Nat.not_lt.mp hle)
      cases hdecode.symm.trans hi
    have herror : e = .reservedPhase := by
      unfold decodeUop at hdecode
      split at hdecode <;> cases hdecode
      rfl
    exact ⟨iff_of_true (by rw [herror]) hlt, iff_of_false (by omega) (by rintro ⟨i, hi, -⟩; cases hi)⟩

/-! ## A step runs the decoded instruction -/

/-- Settles O5: with no event left, or the event `engine` first, the fetch is that of the phase. -/
theorem engineTurnRunsThePhaseOfPH : Obligations.EngineTurnRunsThePhaseOfPH := by
  intro s i hi
  refine ⟨fun hscript => ?used, fun rest hscript => ?event⟩
  case used => exact step_of_run ((fetchNext_nil hscript).trans (fetchPhase_of_ok hi))
  case event => exact step_of_run ((fetchNext_engine hscript).trans (fetchPhase_of_ok hi))

/-- Settles O6: the step of a write to `CMD`, for a word that decodes. -/
theorem commandWriteRunsTheCommand : Obligations.CommandWriteRunsTheCommand := by
  intro s rest w i hscript hi
  rw [step_cmd hscript, hi]

/-- With no event left a step is the phase whose code stands in `PH`. -/
theorem step_engine {s : State} {i : Instr} (hscript : s.script = []) (hcode : encode i = .uop s.ph) :
    step s = exec i s :=
  (engineTurnRunsThePhaseOfPH s i (decodeUop_of_encode hcode)).1 hscript

/-! ## Acceptance (40 R120) -/

theorem step_illegalCommand {s : State} {rest : List HostEvent} {w : Reg32}
    (hscript : s.script = .txn (.regWrite .w32 0x00 w) :: rest) (hw : decodeCmd w = .error .illegalCommand) :
    step s = .next (({ s with script := rest, replies := .written :: s.replies } : State).accept
      State.raiseIllegalCommand) := by
  rw [step_cmd hscript, hw]

theorem State.start_clearFlags (s : State) (o : BitVec 2) :
    s.clearFlags.start o = { s with status := ⟨true, false, false, 0, 0⟩, op := o, ph := PhaseCode.argchk } := rfl

/-- Settles O9: with `BUSY = 0` the command is accepted, and acceptance clears before the sequencer is started. -/
theorem quantizeAndRenderStartTheSequencer : Obligations.QuantizeAndRenderStartTheSequencer := by
  intro s hidle
  rw [exec_quantize, exec_render, State.accept_idle _ hidle, State.accept_idle _ hidle, State.start_clearFlags,
    State.start_clearFlags]
  exact ⟨rfl, rfl⟩

/-- Settles O10: a command's meaning is its acceptance, which does nothing with `BUSY = 1`. -/
theorem commandsAreIgnoredWhileBusy : Obligations.CommandsAreIgnoredWhileBusy := by
  intro s hbusy
  rw [exec_nop, exec_quantize, exec_render, State.accept_busy _ hbusy, State.accept_busy _ hbusy,
    State.accept_busy _ hbusy]
  exact ⟨rfl, rfl, rfl⟩

/-- Settles O7: with `BUSY = 1` neither a command nor an illegal word acts; with `BUSY = 0` the word decides. -/
theorem commandWriteFollowsTheAcceptanceRule : Obligations.CommandWriteFollowsTheAcceptanceRule := by
  rintro s _ rest w hscript rfl
  have hrun {i : Instr} := commandWriteRunsTheCommand s rest w i hscript
  refine ⟨fun hbusy => ?busy, fun hidle hillegal => ?illegal, fun hidle hzero => ?nop, fun hidle hcommand => ?start⟩
  case busy =>
    obtain ⟨hnop, hquantize, hrender⟩ := commandsAreIgnoredWhileBusy
      { s with script := rest, replies := .written :: s.replies } hbusy
    rcases everyCommandWordDecodesOrIsIllegal w with ⟨hw, -⟩ | ⟨hw, -⟩ | ⟨hw, -⟩ | ⟨hw, -⟩
    · exact (hrun hw).trans hnop
    · exact (hrun hw).trans hquantize
    · exact (hrun hw).trans hrender
    · exact (step_illegalCommand hscript hw).trans (congrArg _ (State.accept_busy _ hbusy))
  case illegal =>
    exact (step_illegalCommand hscript (decodeCmd_of_illegal hillegal)).trans
      (congrArg _ (State.accept_idle _ hidle))
  case nop =>
    subst hzero
    exact (hrun rfl).trans (nopClearsTheResultAndSetsDone _ hidle)
  case start =>
    obtain ⟨hquantize, hrender⟩ := quantizeAndRenderStartTheSequencer
      { s with script := rest, replies := .written :: s.replies } hidle
    rcases hcommand with rfl | rfl
    · exact (hrun rfl).trans hquantize
    · exact (hrun rfl).trans hrender

/-! ## Control phases and error entry -/

/-- Settles O11: the meaning of `IDLE` is the state itself. -/
theorem idleChangesNothing : Obligations.IdleChangesNothing := exec_idle

/-- Settles O13: a legal `NUMPIX` raises nothing, and `ARGCHK` tests `OP` for 1 only. -/
theorem argchkTakesTheElseBranchForAnyOtherOp : Obligations.ArgchkTakesTheElseBranchForAnyOtherOp := by
  intro s hlegal hone _
  rw [exec_argchk_ok (argError_of_legal hlegal), if_neg hone, State.goto]

/-- Settles O14: both exceptions are one operation. -/
theorem errorEntryWritesStatusAndReturnsToIdle : Obligations.ErrorEntryWritesStatusAndReturnsToIdle := by
  intro s
  refine ⟨fun info => ?argument, ?command⟩
  case argument => rw [State.raiseInvalidArgument_eq, State.raise]
  case command => rw [State.raiseIllegalCommand_eq, State.raise]

/-- Settles O19: a file of copies of black holds it at every label. -/
theorem clrcentMakesEveryCentroidBlack : Obligations.ClrcentMakesEveryCentroidBlack := by
  intro s
  exact ⟨_, exec_clrcent s, rfl, fun k => fileGet_replicate Rgb.black k⟩

/-! ## A rejected command (60 R219, R221) -/

theorem argError_of_not_legal {n : Nat} (h : ¬ LegalNumpix n) :
    ∃ info, argError Config.maxPix n = some info ∧ (info = 1 ∨ info = 2 ∨ info = 3) := by
  cases harg : argError Config.maxPix n with
  | none => exact absurd (legalNumpix_of_argError harg) h
  | some info =>
    refine ⟨info, rfl, ?_⟩
    have hcode := argError_mem_errorCodes harg
    simpa [errorCodes] using hcode

/-- The start of a command followed by the error entry: all but `STATUS` and `OP` is as before. -/
theorem State.raise_start (s : State) (o : BitVec 2) (code info : BitVec 4) (hph : s.ph = PhaseCode.idle) :
    (s.clearFlags.start o).raise code info = { s with status := ⟨false, false, true, code, info⟩, op := o } := by
  rw [State.start_clearFlags, State.raise, ← hph]

/-- Settles O16: the command is accepted, the engine's next turn is `ARGCHK`, and that raises. -/
theorem rejectedCommandWritesNoOutput : Obligations.RejectedCommandWritesNoOutput := by
  intro s hidle hph hscript hillegal i o hio
  obtain ⟨info, harg, hinfo⟩ := argError_of_not_legal hillegal
  have hstart : exec i s = .next (s.clearFlags.start o) := by
    obtain ⟨rfl, rfl⟩ | ⟨rfl, rfl⟩ : (i = .quantize ∧ o = 1) ∨ (i = .render ∧ o = 2) := by simpa using hio
    · rw [exec_quantize, State.accept_idle _ hidle]
    · rw [exec_render, State.accept_idle _ hidle]
  refine ⟨_, info, hstart, hinfo, ?_⟩
  rw [← State.raise_start s o 1 info hph, ← exec_argchk_error (s := s.clearFlags.start o) harg]
  exact step_engine hscript rfl

end Sys2Proof.Machine

/-! Proofs about the host's transactions and the reset input (10 R21 to R28; 20 R63 to R65; 30 R105; 70 R245 to
R247). -/

namespace Sys2Proof.Machine

theorem step_txn {s t : State} {rest : List HostEvent} {x : Txn} (h : s.script = .txn x :: rest)
    (ht : hostTxn x { s with script := rest } = .settled t) : step s = .next t :=
  step_of_settled ((fetchNext_txn h).trans ht)

/-! ## The words of `STATUS`, `ITER` and `DARK` (10 R23, R25, R26) -/

theorem getLsbD_append_of_le {v w i : Nat} (x : BitVec v) (y : BitVec w) (h : w ≤ i) :
    (x ++ y).getLsbD i = x.getLsbD (i - w) := by
  rw [BitVec.getLsbD_append, if_neg (Nat.not_lt.mpr h)]

theorem getLsbD_append_bit {v : Nat} (x : BitVec v) (b : Bool) : (x ++ bit b).getLsbD 0 = b := by
  rw [BitVec.getLsbD_append, if_pos Nat.one_pos]
  cases b <;> rfl

theorem State.statusWord_fields (s : State) :
    s.statusWord.getLsbD 0 = s.status.busy ∧ s.statusWord.getLsbD 1 = s.status.done ∧
    s.statusWord.getLsbD 2 = s.status.err ∧ s.statusWord.getLsbD 3 = false ∧
    s.statusWord.extractLsb' 4 4 = s.status.errCode ∧ s.statusWord.extractLsb' 8 4 = s.status.errInfo ∧
    s.statusWord.extractLsb' 12 5 = s.ph ∧ s.statusWord.extractLsb' 17 15 = 0 := by
  rw [State.statusWord]
  refine ⟨?busy, ?done, ?err, ?zero, ?code, ?info, ?phase, ?rest⟩
  case zero =>
    repeat rw [getLsbD_append_of_le _ _ (by decide)]
    exact getLsbD_append_bit _ false
  case busy | done | err =>
    repeat rw [getLsbD_append_of_le _ _ (by decide)]
    exact getLsbD_append_bit _ _
  case code | info | phase =>
    repeat rw [BitVec.extractLsb'_append_eq_of_le (by decide)]
    exact BitVec.extractLsb'_append_eq_right
  case rest =>
    repeat rw [BitVec.extractLsb'_append_eq_of_le (by decide)]
    exact BitVec.extractLsb'_eq_self

theorem State.iterWord_fields (s : State) :
    s.iterWord.extractLsb' 0 5 = s.iter.rounds ∧ s.iterWord.extractLsb' 5 3 = 0 ∧
    s.iterWord.getLsbD 8 = s.iter.conv ∧ s.iterWord.extractLsb' 9 23 = 0 := by
  rw [State.iterWord]
  refine ⟨BitVec.extractLsb'_append_eq_right, ?gap, ?conv, ?rest⟩
  case gap =>
    rw [BitVec.extractLsb'_append_eq_of_le (by decide)]
    exact BitVec.extractLsb'_append_eq_right
  case conv =>
    repeat rw [getLsbD_append_of_le _ _ (by decide)]
    exact getLsbD_append_bit _ _
  case rest =>
    repeat rw [BitVec.extractLsb'_append_eq_of_le (by decide)]
    exact BitVec.extractLsb'_eq_self
theorem State.darkWord_fields (s : State) :
    s.darkWord.extractLsb' 0 4 = s.dark ∧ s.darkWord.extractLsb' 4 28 = 0 :=
  ⟨BitVec.extractLsb'_append_eq_right, BitVec.extractLsb'_append_eq_left⟩

/-! ## Register accesses (10 R21 to R27; 20 R63) -/

/-- An aligned offset inside the register block. -/
structure RegOffset (off : Nat) : Prop where
  inBlock : inBlock off = true
  aligned : regAccessOk .w32 off = true

theorem step_regRead {s : State} {rest : List HostEvent} {off : Nat} (hoff : RegOffset off)
    (h : s.script = .txn (.regRead .w32 off) :: rest) :
    step s = .next { s with script := rest, replies := .word (s.regWord (regAt off)) :: s.replies } := by
  refine step_txn h ?_
  rw [hostTxn, hostRegRead, if_neg (by simp [hoff.inBlock]), if_neg (by simp [hoff.aligned])]
  cases regAt off <;> rfl

/-- A write of a register that is neither `CMD` nor `NUMPIX` does nothing. -/
theorem step_regWrite_ignored {s : State} {rest : List HostEvent} {off : Nat} {w : Reg32} (hoff : RegOffset off)
    (hcmd : regAt off ≠ .cmd) (hnumpix : regAt off ≠ .numpix) (h : s.script = .txn (.regWrite .w32 off w) :: rest) :
    step s = .next { s with script := rest, replies := .written :: s.replies } := by
  refine step_txn h ?_
  rw [hostTxn, hostRegWrite, if_neg (by simp [hoff.inBlock]), if_neg (by simp [hoff.aligned])]
  cases hreg : regAt off
  case cmd => exact absurd hreg hcmd
  case numpix => exact absurd hreg hnumpix
  all_goals rfl

theorem step_writeNumpix {s : State} {rest : List HostEvent} {w : Reg32}
    (h : s.script = .txn (.regWrite .w32 0x08 w) :: rest) :
    step s = .next (State.writeNumpix { s with script := rest, replies := .written :: s.replies } w) :=
  step_txn h rfl

/-- Settles O44: each of the three registers reads as its word, at any time. -/
theorem statusIterDarkReadsReturnTheirFields : Obligations.StatusIterDarkReadsReturnTheirFields := by
  intro s rest
  exact ⟨fun h => ⟨_, step_regRead ⟨rfl, rfl⟩ h, s.statusWord_fields⟩,
    fun h => ⟨_, step_regRead ⟨rfl, rfl⟩ h, s.iterWord_fields⟩,
    fun h => ⟨_, step_regRead ⟨rfl, rfl⟩ h, s.darkWord_fields⟩⟩

/-- Settles O45: the write of `NUMPIX` tests `BUSY`, the read does not. -/
theorem numpixIsWrittenOnlyWhileIdleAndReadsBack : Obligations.NumpixIsWrittenOnlyWhileIdleAndReadsBack := by
  intro s rest w
  refine ⟨fun h => ⟨fun hidle => ?idle, fun hbusy => ?busy⟩, fun h => step_regRead ⟨rfl, rfl⟩ h⟩
  case idle => rw [step_writeNumpix h, State.writeNumpix, if_neg (by simp [hidle])]
  case busy => rw [step_writeNumpix h, State.writeNumpix, if_pos hbusy]

/-- Settles O46: `CMD` and the reserved words read 0, and only `CMD` and `NUMPIX` can be written. -/
theorem readOnlyAndReservedWordsIgnoreWrites : Obligations.ReadOnlyAndReservedWordsIgnoreWrites := by
  intro s rest off
  refine ⟨fun hoff h => ?read, fun hoff w h => ?write⟩
  case read =>
    have hreg : RegOffset off ∧ s.regWord (regAt off) = 0 := by
      fin_cases hoff <;> exact ⟨⟨rfl, rfl⟩, rfl⟩
    rw [step_regRead hreg.1 h, hreg.2]
  case write =>
    have hreg : RegOffset off ∧ regAt off ≠ .cmd ∧ regAt off ≠ .numpix := by
      fin_cases hoff <;> exact ⟨⟨rfl, rfl⟩, by decide, by decide⟩
    obtain ⟨hok, hcmd, hnumpix⟩ := hreg
    exact step_regWrite_ignored hok hcmd hnumpix h

/-! ## Memory accesses (20 R64, R65) -/

theorem memAccessOk_of_lt {m : MemName} {a : Nat} (h : a < memSize m) : memAccessOk m .w8 a = true := by
  simp [memAccessOk, h]

/-- Settles O49: the access is admitted, and with `BUSY = 0` it returns the byte stored. -/
theorem hostByteReadReturnsTheStoredByte : Obligations.HostByteReadReturnsTheStoredByte := by
  intro s rest m a h hidle ha
  refine step_txn h ?_
  rw [hostTxn, hostMemRead, if_neg (by simp [memAccessOk_of_lt ha]), if_neg (by simp [hidle])]
  rfl

theorem step_memWrite {s : State} {rest : List HostEvent} {m : MemName} {a : Nat} {v : Byte}
    (h : s.script = .txn (.memWrite m .w8 a v) :: rest) (hidle : s.status.busy = false) (ha : a < memSize m) :
    step s = .next ((State.memWrite { s with script := rest } m a v).reply .written) := by
  refine step_txn h ?_
  rw [hostTxn, hostMemWrite, if_neg (by simp [memAccessOk_of_lt ha]), if_neg (by simp [hidle])]

/-- Settles O48: an admitted write is `MemWrite`, which stores one byte of one memory. -/
theorem hostByteWriteStoresThatByteOnly : Obligations.HostByteWriteStoresThatByteOnly := by
  intro s rest m a v h hidle ha
  have hread (m' : MemName) (b : Nat) := State.memRead_memWrite { s with script := rest } m m' a b v
  refine ⟨_, step_memWrite h hidle ha, (hread m a).trans (if_pos ⟨rfl, rfl⟩), fun m' b hne => ?other, ?frame⟩
  case other => exact (hread m' b).trans (if_neg fun heq => hne (Prod.ext heq.1 heq.2))
  case frame => cases m <;> rfl

/-! ## Refused accesses (20 R63, R64; 10 R27) -/

/-- A register access that is not performed: outside the block, or not an aligned word. -/
theorem regAccess_refused {width : Width} {off : Nat} (h : width ≠ .w32 ∨ off % 4 ≠ 0 ∨ 32 ≤ off) :
    inBlock off = false ∨ regAccessOk width off = false := by
  rcases h with hwidth | halign | hblock
  · exact .inr (by simp [regAccessOk, hwidth])
  · exact .inr (by simp [regAccessOk, halign])
  · exact .inl (by simp [inBlock, hblock])

theorem memAccess_refused {m : MemName} {width : Width} {a : Nat} (h : width ≠ .w8 ∨ memSize m ≤ a) :
    memAccessOk m width a = false := by
  rcases h with hwidth | hsize
  · simp [memAccessOk, hwidth]
  · simp [memAccessOk, hsize]

/-- Settles O47: every such access is answered with a reply and nothing else. -/
theorem refusedAccessesChangeNothing : Obligations.RefusedAccessesChangeNothing := by
  intro s rest x h hx
  suffices hreply : ∃ r, hostTxn x { s with script := rest } = .settled (State.reply { s with script := rest } r) by
    obtain ⟨r, hr⟩ := hreply
    exact ⟨r, step_txn h hr⟩
  rcases hx with ⟨width, off, hbad, hx⟩ | ⟨m, width, a, hbad, hx⟩ | rfl
  · have hrefused := regAccess_refused hbad
    rcases hx with rfl | ⟨w, rfl⟩
    · rw [hostTxn, hostRegRead]
      split_ifs <;> exact ⟨_, rfl⟩
    · rw [hostTxn, hostRegWrite]
      split_ifs with hblock hok
      · exact ⟨_, rfl⟩
      · exact ⟨_, rfl⟩
      · exact absurd hrefused (by simp [hblock, hok])
  · have hrefused := memAccess_refused hbad
    rcases hx with rfl | ⟨v, rfl⟩
    · rw [hostTxn, hostMemRead, if_pos hrefused]
      exact ⟨_, rfl⟩
    · rw [hostTxn, hostMemWrite, if_pos hrefused]
      exact ⟨_, rfl⟩
  · exact ⟨_, rfl⟩

/-! ## The host while a command runs (20 R65; 40 R126) -/

theorem hostTxn_memRead_busy {s : State} {m : MemName} {a : Nat} (hbusy : s.status.busy = true) (ha : a < memSize m) :
    hostTxn (.memRead m .w8 a) s =
      .settled ({ s with fresh := s.fresh + 1 }.reply (.byte (Config.freeByte s.fresh))) := by
  rw [hostTxn, hostMemRead, if_neg (by simp [memAccessOk_of_lt ha]), if_pos hbusy]

/-- Settles O50: a word written to `CMD` is dropped, and while `BUSY = 1` nothing else the host does but reset
writes. -/
theorem hostCannotDisturbARunningCommand : Obligations.HostCannotDisturbARunningCommand := by
  intro s rest x h hbusy hreset
  by_cases hcmd : ∃ w, x = .regWrite .w32 0x00 w
  · obtain ⟨w, rfl⟩ := hcmd
    exact ⟨_, (commandWriteFollowsTheAcceptanceRule s _ rest w h rfl).1 hbusy, rfl, nofun⟩
  · obtain ⟨numpix, replies, fresh, src, img, pal, dst, ht, hkeep, -⟩ :=
      hostTxn_cases (s := { s with script := rest }) (not_exists.mp hcmd) hreset
    obtain ⟨rfl, rfl, rfl, rfl, rfl⟩ := hkeep hbusy
    refine ⟨_, step_txn h ht, rfl, fun m a hx ha => ⟨Config.freeByte s.fresh, ?_⟩⟩
    subst hx
    have hread := Fetch.settled.inj (ht.symm.trans (hostTxn_memRead_busy hbusy ha))
    exact congrArg State.replies hread

/-! ## What a step does to `STATUS` (10 R28; 60 R222) -/

/-- A step is a phase, a write of `CMD`, reset, or it leaves `STATUS` and `PH`. -/
theorem step_status_cases {s t : State} (h : step s = .next t) :
    (∃ i script, encode i = .uop s.ph ∧ exec i { s with script := script } = .next t) ∨
    (∃ w rest, s.script = .txn (.regWrite .w32 0x00 w) :: rest) ∨
    (∃ rest, s.script = .txn .resetInput :: rest) ∨ (t.status = s.status ∧ t.ph = s.ph) := by
  have hphase (script : List HostEvent) (hfetch : fetchNext s = fetchPhase { s with script := script }) :
      ∃ i script, encode i = .uop s.ph ∧ exec i { s with script := script } = .next t := by
    rcases step_cases h with ⟨i, u, hrun, ht⟩ | hsettled
    · obtain ⟨rfl, hi⟩ := fetchPhase_run (hfetch.symm.trans hrun)
      exact ⟨i, script, encode_of_decodeUop hi, ht⟩
    · have hstuck := hfetch.symm.trans hsettled
      unfold fetchPhase at hstuck
      split at hstuck <;> cases hstuck
  match hscript : s.script with
  | [] => exact .inl (hphase [] (by rw [fetchNext_nil hscript, ← hscript]))
  | .engine :: rest => exact .inl (hphase rest (fetchNext_engine hscript))
  | .wait :: rest =>
    obtain rfl := Host.Outcome.next.inj ((step_of_settled (fetchNext_wait hscript)).symm.trans h)
    exact .inr (.inr (.inr ⟨rfl, rfl⟩))
  | .txn x :: rest =>
    by_cases hreset : x = .resetInput
    · exact .inr (.inr (.inl ⟨rest, by rw [hreset]⟩))
    by_cases hcmd : ∃ w, x = .regWrite .w32 0x00 w
    · obtain ⟨w, rfl⟩ := hcmd
      exact .inr (.inl ⟨w, rest, rfl⟩)
    · obtain ⟨numpix, replies, fresh, src, img, pal, dst, ht, -⟩ :=
        hostTxn_cases (s := { s with script := rest }) (not_exists.mp hcmd) hreset
      obtain rfl := Host.Outcome.next.inj ((step_txn hscript ht).symm.trans h)
      exact .inr (.inr (.inr ⟨rfl, rfl⟩))

/-- Settles O51: with `BUSY = 0` the phase in `PH` is `IDLE`, which changes nothing. -/
theorem resultFlagsStayUntilTheNextCommand : Obligations.ResultFlagsStayUntilTheNextCommand := by
  intro s t hinv hidle h hcmd hreset
  rcases step_status_cases h with ⟨i, script, hcode, ht⟩ | ⟨w, rest, hscript⟩ | ⟨rest, hscript⟩ | hkeep
  · rw [hinv.idle.mpr hidle] at hcode
    obtain rfl : i = .idle := by cases i <;> first | rfl | cases hcode
    obtain rfl := Host.Outcome.next.inj ht
    exact ⟨rfl, rfl⟩
  · exact absurd hscript (hcmd w rest)
  · exact absurd hscript (hreset rest)
  · exact hkeep

/-- One of the three flags is set. -/
def Status.someFlag (x : Status) : Bool := x.busy || x.done || x.err

/-- `ARGCHK` that raises sets `ERR`, `FINISH` sets `DONE`, and no other phase writes `STATUS`. -/
theorem exec_keeps_someFlag {i : Instr} {s t : State} {p : PhCode} (h : exec i s = .next t) (hcode : encode i = .uop p)
    (hs : s.status.someFlag = true) : t.status.someFlag = true := by
  cases i
  case nop | quantize | render => cases hcode
  case argchk =>
    obtain rfl := eq_after_of_exec h
    rw [State.after]
    cases argError Config.maxPix s.numpix.toNat with
    | some info => rfl
    | none => exact hs
  case finish =>
    obtain rfl := Host.Outcome.next.inj h
    rfl
  all_goals rwa [exec_status h (by decide)]

/-- With `BUSY = 1` the word is dropped, with `BUSY = 0` every word sets a flag. -/
theorem step_cmd_keeps_someFlag {s t : State} {rest : List HostEvent} {w : Reg32}
    (hscript : s.script = .txn (.regWrite .w32 0x00 w) :: rest) (h : step s = .next t)
    (hs : s.status.someFlag = true) : t.status.someFlag = true := by
  obtain ⟨hbusy, hillegal, hnop, hstart⟩ := commandWriteFollowsTheAcceptanceRule s _ rest w hscript rfl
  cases hb : s.status.busy with
  | true =>
    obtain rfl := Host.Outcome.next.inj ((hbusy hb).symm.trans h)
    exact hs
  | false =>
    rcases everyCommandWordDecodesOrIsIllegal w with ⟨-, hw⟩ | ⟨-, hw⟩ | ⟨-, hw⟩ | ⟨-, hw⟩
    · obtain rfl := Host.Outcome.next.inj ((hnop hb hw).symm.trans h)
      rfl
    · obtain rfl := Host.Outcome.next.inj ((hstart hb (.inl hw)).symm.trans h)
      rfl
    · obtain rfl := Host.Outcome.next.inj ((hstart hb (.inr hw)).symm.trans h)
      rfl
    · obtain rfl := Host.Outcome.next.inj ((hillegal hb hw).symm.trans h)
      rfl

/-- Settles O52: neither a phase nor a write of `CMD` clears the last flag. -/
theorem someFlagStaysSetUntilReset : Obligations.SomeFlagStaysSetUntilReset := by
  intro s t h hreset hs
  rcases step_status_cases h with ⟨i, script, hcode, ht⟩ | ⟨w, rest, hscript⟩ | ⟨rest, hscript⟩ | ⟨hstatus, -⟩
  · exact exec_keeps_someFlag ht hcode hs
  · exact step_cmd_keeps_someFlag hscript h hs
  · exact absurd hscript (hreset rest)
  · rwa [hstatus]

/-- Settles O53: a poll replies with `STATUS` and puts the engine's turn and the next poll in front exactly with
`BUSY = 1`. -/
theorem waitPollsStatusUntilBusyIsZero : Obligations.WaitPollsStatusUntilBusyIsZero := by
  intro s rest h
  rw [step_of_settled (fetchNext_wait h), pollStatus]
  refine ⟨fun hidle => ?idle, fun hbusy => ?busy⟩
  case idle => rw [if_neg (by simp [hidle])]; rfl
  case busy => rw [if_pos hbusy]; rfl

/-! ## Reset (10 R46; 70 R245 to R247) -/

/-- Settles O54: the values are those `State.reset` is written with. -/
theorem resetLeavesTheSpecifiedRegisterValues : Obligations.ResetLeavesTheSpecifiedRegisterValues :=
  ⟨rfl, by decide, rfl, by decide, by decide, rfl⟩

/-- What reset leaves in the byte memories of a running command: those of its outputs are scrambled. -/
theorem State.takeReset_busy {s : State} (hbusy : s.status.busy = true) :
    s.takeReset.epoch = s.epoch ∧ s.takeReset.src = s.src ∧
    (s.op = 1 → s.takeReset.img = scramble s.img s.fresh s.imgBytes ∧
      s.takeReset.pal = scramble s.pal (s.fresh + s.imgBytes) Config.palBytes ∧ s.takeReset.dst = s.dst) ∧
    (s.op = 2 → s.takeReset.img = s.img ∧ s.takeReset.pal = s.pal ∧
      s.takeReset.dst = scramble s.dst s.fresh s.dstBytes) := by
  rw [State.takeReset, if_pos hbusy, State.resetBusy]
  split_ifs with hquantize hrender
  · exact ⟨rfl, rfl, fun _ => ⟨rfl, by dsimp only, rfl⟩, fun h => absurd (hquantize.symm.trans h) (by decide)⟩
  · exact ⟨rfl, rfl, fun h => absurd h hquantize, fun _ => ⟨rfl, rfl, rfl⟩⟩
  · exact ⟨rfl, rfl, fun h => absurd h hquantize, fun h => absurd h hrender⟩

/-- A byte outside the scrambled ones reads as before. -/
theorem State.memRead_of_scramble {s t : State} {m : MemName} {first count a : Nat} (hepoch : t.epoch = s.epoch)
    (hmem : t.mem m = scramble (s.mem m) first count) (ha : count ≤ a) : t.memRead m a = s.memRead m a := by
  rw [State.memRead_of_mem hepoch hmem, State.byteIn_scramble, if_neg (Nat.not_lt.mpr ha), State.memRead]

/-- Settles O55: reset scrambles at most the bytes the command was entitled to write. -/
theorem resetInputReturnsToIdleAndKeepsOtherBytes : Obligations.ResetInputReturnsToIdleAndKeepsOtherBytes := by
  intro s rest h
  let u : State := { s with script := rest }
  obtain ⟨hstatus, hnumpix, hiter, hdark, hph, hscript⟩ := u.takeReset_regs
  refine ⟨u.takeReset, step_txn h rfl, hstatus, hnumpix, hiter, hdark, hph, hscript, fun hbusy => ?_⟩
  obtain ⟨hepoch, hsrc, hquantize, hrender⟩ := u.takeReset_busy hbusy
  have himgBytes : u.imgBytes ≤ s.numpix.toNat / 2 := Nat.min_le_left _ _
  have hdstBytes : u.dstBytes ≤ 4 * s.numpix.toNat := Nat.min_le_left _ _
  refine ⟨State.memRead_congr .src hepoch hsrc, fun hop => ?quantize, fun hop => ?render⟩
  case quantize =>
    obtain ⟨himg, hpal, hdst⟩ := hquantize hop
    exact ⟨fun a ha => State.memRead_of_scramble (m := .img) hepoch himg (himgBytes.trans ha),
      fun a ha => State.memRead_of_scramble (m := .pal) hepoch hpal ha, State.memRead_congr .dst hepoch hdst⟩
  case render =>
    obtain ⟨himg, hpal, hdst⟩ := hrender hop
    exact ⟨State.memRead_congr .img hepoch himg, State.memRead_congr .pal hepoch hpal,
      fun a ha => State.memRead_of_scramble (m := .dst) hepoch hdst (hdstBytes.trans ha)⟩

end Sys2Proof.Machine

/-! Proofs about the phases of `QUANTIZE` that read what another phase left: `SEED`, `ACCUM`, a round of k-means, the
indices (41 R142, R145, R156; 42 R175; 43 R196). -/

namespace Sys2Proof.Machine

/-! ## What `SEED` leaves in `WRK` (41 R142) -/

theorem State.wrkIn_seedWrk (s : State) (n i : Nat) :
    s.wrkIn (s.seedWrk n) i = if i < n then { s.wrkRead i with l := s.draw i } else s.wrkRead i :=
  s.wrkIn_loop s.wrk n (fun i e => { e with l := s.draw i }) i

/-- What `WRK` reads after `COPY`. -/
theorem exec_copy_reads {s t : State} (h : exec .copy s = .next t) (i : Nat) :
    t.wrkRead i = if i < s.numpix.toNat then { s.wrkRead i with rgb := s.srcPixel i } else s.wrkRead i := by
  obtain rfl := eq_after_of_exec h
  exact (State.wrkRead_of_wrk rfl rfl i).trans (s.wrkIn_copyWrk _ i)

/-- What `WRK` reads after `SEED`. -/
theorem exec_seed_reads {s t : State} (h : exec .seed s = .next t) (i : Nat) :
    t.wrkRead i = if i < s.numpix.toNat then { s.wrkRead i with l := s.draw i } else s.wrkRead i := by
  obtain rfl := eq_after_of_exec h
  exact (State.wrkRead_of_wrk rfl rfl i).trans (s.wrkIn_seedWrk _ i)

/-- Settles O18: `SEED` writes entry `i` in pass `i`, so each label below `NUMPIX` is drawn once. -/
theorem seedLabelsPixelsWithDrawsAndClearsIter : Obligations.SeedLabelsPixelsWithDrawsAndClearsIter := by
  intro s hn
  have hread := exec_seed_reads (exec_seed hn)
  refine ⟨_, exec_seed hn, rfl, fun i hi => ⟨?below, fun v => State.draw_of_getElem?⟩, fun i hi => ?above⟩
  case below => exact (hread i).trans (if_pos hi)
  case above => exact (hread i).trans (if_neg (Nat.not_lt.mpr hi))

/-- Settles O21: the sums are those of the loop, from any contents of `ACC`. -/
theorem accumAddsEachPixelToItsCluster : Obligations.AccumAddsEachPixelToItsCluster := by
  intro s hn
  exact ⟨_, exec_accum hn, rfl, fun k => s.fileGet_accumAcc _ k⟩

/-! ## The index of a pixel (42 R175; 43 R196) -/

/-- Settles O32: the pixels of an even image fill whole bytes, pixel `i` in the half that `getnib` reads. -/
theorem packedIndexIsTheLabel : Obligations.PackedIndexIsTheLabel := by
  intro s t _ heven h i hi
  have hread := (exec_pack_reads h (i / 2)).trans (if_pos (by omega))
  rcases Nat.mod_two_eq_zero_or_one i with hpar | hpar
  · rw [getnib_of_even _ hpar, hread, hiNibble_packByte, show 2 * (i / 2) = i by omega]
  · rw [getnib_of_odd _ hpar, hread, loNibble_packByte, show 2 * (i / 2) + 1 = i by omega]

/-- The table exchanges the indices of both pixels of a byte. -/
theorem getnib_of_lutbyte {M M' : Nat → Byte} {i : Nat} {d : Label} (h : M' (i / 2) = lutbyte d (M (i / 2))) :
    getnib M' i = swapidx d (getnib M i) := by
  rcases Nat.mod_two_eq_zero_or_one i with hpar | hpar
  · rw [getnib_of_even _ hpar, getnib_of_even _ hpar, h, lutbyte, hiNibble_packByte]
  · rw [getnib_of_odd _ hpar, getnib_of_odd _ hpar, h, lutbyte, loNibble_packByte]

/-- What `IMG` reads after `LUTGEN` and `RELABEL`: each byte of the image through the table of 43 R193. -/
theorem exec_lutgen_relabel_reads {s a t : State} (ha : exec .lutgen s = .next a) (ht : exec .relabel a = .next t)
    {j : Nat} (hj : j < s.numpix.toNat / 2) : t.memRead .img j = lutbyte s.dark (s.memRead .img j) := by
  have hread := exec_relabel_reads ht j
  rwa [exec_numpix ha, if_pos hj, exec_lutgen_reads ha, exec_memRead ha (by decide)] at hread

/-- Settles O39: `RELABEL` puts every byte of the image through the table that `LUTGEN` built. -/
theorem relabelExchangesIndicesOfEveryPixel : Obligations.RelabelExchangesIndicesOfEveryPixel := by
  intro s a hn heven ha
  have hfits : a.numpix.toNat ≤ Config.maxPix := by rwa [exec_numpix ha]
  exact ⟨_, exec_relabel hfits, fun i hi =>
    getnib_of_lutbyte (exec_lutgen_relabel_reads ha (exec_relabel hfits) (by omega))⟩

/-! ## The centroids of a round (41 R148, R149, R156) -/

theorem mean8_eq_meanOf {x c : BitVec 32} {n : Nat} {lab : Nat → Label} {ch : Nat → Byte} {k : Label} (hc : c ≠ 0)
    (hcnt : c.toNat = (members n lab k).length) (hsum : x.toNat = clusterSum n lab ch k) :
    mean8 x c = meanOf n lab ch k := by
  have hle : x.toNat ≤ 255 * c.toNat := by
    rw [hsum, hcnt]
    exact clusterSum_le n lab ch k
  rw [mean8, if_pos ⟨hc, hle⟩, hsum, hcnt, meanOf]

/-- From cleared accumulators `ACCUM` and `MEAN` give the centroid of the round. -/
theorem State.meanEntry_accumAcc {s : State} {n : Nat} {k : Label} (hn : n ≤ Config.maxPix)
    (hzero : fileGet s.acc k = Acc.zero) :
    meanEntry (fileGet (s.accumAcc n) k) (fileGet s.cent k) = roundCent n s.px s.clustering k := by
  obtain ⟨hcnt, hr, hg, hb⟩ := State.toNat_fileGet_accumAcc hn hzero
  rw [roundCent]
  by_cases hempty : members n s.lab k = []
  · have hnone : (fileGet (s.accumAcc n) k).cnt = 0 := by
      rw [hempty] at hcnt
      exact BitVec.eq_of_toNat_eq hcnt
    rw [meanEntry_of_empty _ hnone]
    exact (if_pos hempty).symm
  · have hsome : (fileGet (s.accumAcc n) k).cnt ≠ 0 := by
      intro hnone
      rw [hnone] at hcnt
      exact hempty (List.length_eq_zero_iff.mp hcnt.symm)
    rw [meanEntry_of_members _ hsome, mean8_eq_meanOf hsome hcnt hr, mean8_eq_meanOf hsome hcnt hg,
      mean8_eq_meanOf hsome hcnt hb]
    exact (if_neg hempty).symm

/-! ## Runs of the engine alone -/

/-- The engine takes `k` steps from `s` to `t`, with `STATUS` at `x` before each of them. -/
structure EngineRun (x : Status) (k : Nat) (s t : State) : Prop where
  run : Host.Core.run Sys2Proof.core k s = .next t
  status : ∀ j, j < k → ∃ u, Host.Core.run Sys2Proof.core j s = .next u ∧ u.status = x

theorem EngineRun.trans {x : Status} {j k : Nat} {s u t : State} (h : EngineRun x j s u) (h' : EngineRun x k u t) :
    EngineRun x (j + k) s t := by
  refine ⟨(run_add h.run).trans h'.run, fun m hm => ?_⟩
  by_cases hj : m < j
  · exact h.status m hj
  · obtain ⟨v, hv, hstatus⟩ := h'.status (m - j) (by omega)
    refine ⟨v, ?_, hstatus⟩
    rw [← hv, ← run_add h.run, Nat.add_sub_of_le (Nat.le_of_not_lt hj)]

/-- The engine stands before phase `p` on `n` pixels, with no event left and `STATUS` at `x`. -/
structure EngineAt (x : Status) (n : Nat) (p : PhCode) (s : State) : Prop where
  status : s.status = x
  script : s.script = []
  numpix : s.numpix.toNat = n
  fits : n ≤ Config.maxPix
  ph : s.ph = p

theorem EngineAt.run {x : Status} {n : Nat} {p : PhCode} {s t : State} {i : Instr} (h : EngineAt x n p s)
    (hcode : encode i = .uop p) (ht : exec i s = .next t) : EngineRun x 1 s t := by
  have hstep : step s = .next t := (step_engine h.script (by rw [h.ph, hcode])).trans ht
  refine ⟨run_succ_of_next 0 hstep, fun j hj => ⟨s, ?_, h.status⟩⟩
  rw [Nat.lt_one_iff.mp hj]
  rfl

/-- A phase that does not write `STATUS` leaves the engine before the next one. -/
theorem EngineAt.phase {x : Status} {n : Nat} {p : PhCode} {s : State} (h : EngineAt x n p s) (i : Instr)
    (hcode : encode i = .uop p) (hi : i ∉ [Instr.nop, .quantize, .render, .argchk, .finish]) :
    ∃ t, exec i s = .next t ∧ EngineRun x 1 s t ∧ EngineAt x n (nextPhase s i) t := by
  obtain ⟨t, ht⟩ := exec_answers i s fun _ => h.numpix.trans_le h.fits
  refine ⟨t, ht, h.run hcode ht, (exec_status ht hi).trans h.status, (exec_script ht).trans h.script, ?_, h.fits,
    exec_ph ht (by rw [h.ph, hcode])⟩
  rw [exec_numpix ht, h.numpix]

/-- `t` holds the four byte memories that `s` holds. -/
structure State.SameMemories (s t : State) : Prop where
  mem : ∀ m, t.mem m = s.mem m
  epoch : t.epoch = s.epoch

theorem State.SameMemories.trans {s u t : State} (h : s.SameMemories u) (h' : u.SameMemories t) :
    s.SameMemories t :=
  ⟨fun m => (h'.mem m).trans (h.mem m), h'.epoch.trans h.epoch⟩

theorem exec_sameMemories {i : Instr} {s t : State} (h : exec i s = .next t)
    (hi : i ∉ [MemName.src, .img, .pal, .dst].flatMap writers) : s.SameMemories t := by
  obtain ⟨-, -, -, -, -, -, -, hepoch, -⟩ := eachMemoryIsWrittenOnlyByItsPhases s t i h
  refine ⟨fun m => exec_mem h fun hm => hi (List.mem_flatMap.mpr ⟨m, ?_, hm⟩), hepoch⟩
  cases m <;> decide

/-! ## The four phases of a round (41 R156) -/

theorem exec_mean_reads {s t : State} (h : exec .mean s = .next t) (k : Label) :
    fileGet t.cent k = meanEntry (fileGet s.acc k) (fileGet s.cent k) := by
  obtain rfl := Host.Outcome.next.inj ((exec_mean s).symm.trans h)
  exact fileGet_ofFn _ k

/-- `CLRACC`, `ACCUM` and `MEAN` give the centroids of the round. -/
theorem exec_clracc_accum_mean_reads {s a b c : State} (ha : exec .clracc s = .next a) (hb : exec .accum a = .next b)
    (hc : exec .mean b = .next c) (k : Label) :
    fileGet c.cent k = roundCent s.numpix.toNat s.px s.clustering k := by
  have hn : s.numpix.toNat ≤ Config.maxPix := by
    rw [← exec_numpix ha]
    exact fits_of_exec_next hb rfl
  have hzero : fileGet a.acc k = Acc.zero := by
    rw [eq_after_of_exec ha]
    exact fileGet_replicate Acc.zero k
  have hacc : b.acc = a.accumAcc s.numpix.toNat := by
    rw [eq_after_of_exec hb, State.after, State.goto_acc, exec_numpix ha]
  have hpx : a.px = s.px := funext fun i => congrArg WrkEntry.rgb (exec_wrkRead ha (by decide) i)
  have hclustering : a.clustering = s.clustering := by
    simp only [State.clustering, exec_wrkRead ha (by decide), exec_cent ha (by decide)]
  rw [exec_mean_reads hc, hacc, exec_cent hb (by decide), State.meanEntry_accumAcc hn hzero, hpx, hclustering]

theorem State.clustering_lab (s : State) (i : Nat) : s.clustering.lab i = (s.wrkRead i).l := rfl

/-- What four phases of a round leave on `n` pixels. -/
structure RoundHolds (n : Nat) (s t : State) : Prop where
  isRound : IsRound n s.px s.clustering t.clustering
  px : ∀ i, t.px i = s.px i
  changed : t.changed = true ↔ LabelsChanged n s.clustering t.clustering
  iter : t.iter = s.iter
  memories : s.SameMemories t

theorem EngineAt.round {x : Status} {n : Nat} {s : State} (h : EngineAt x n PhaseCode.clracc s) :
    ∃ t, EngineRun x 4 s t ∧ EngineAt x n PhaseCode.roundend t ∧ RoundHolds n s t := by
  obtain ⟨a, ha, hruna, hata⟩ := h.phase .clracc rfl (by decide)
  obtain ⟨b, hb, hrunb, hatb⟩ := hata.phase .accum rfl (by decide)
  obtain ⟨c, hc, hrunc, hatc⟩ := hatb.phase .mean rfl (by decide)
  obtain ⟨t, ht, hrunt, hatt⟩ := hatc.phase .assign rfl (by decide)
  have hwrk (i : Nat) : c.wrkRead i = s.wrkRead i := by
    rw [exec_wrkRead hc (by decide), exec_wrkRead hb (by decide), exec_wrkRead ha (by decide)]
  have hcent (k : Label) : fileGet t.cent k = roundCent n s.px s.clustering k := by
    rw [exec_cent ht (by decide), exec_clracc_accum_mean_reads ha hb hc, h.numpix]
  obtain ⟨hread, hchanged⟩ := exec_assign_reads ht
  simp only [hatc.numpix, State.relabelled, hwrk] at hread hchanged
  refine ⟨t, ((hruna.trans hrunb).trans hrunc).trans hrunt, hatt, ⟨hcent, fun i hi => ?nearest⟩, fun i => ?px,
    hchanged.trans ?changed, ?iter, ?memories⟩
  case nearest =>
    have hlab : t.clustering.lab i = nearest (s.px i) c.cent := by
      rw [State.clustering_lab, hread i, if_pos hi, State.px]
    rw [hlab, State.clustering, exec_cent ht (by decide)]
    exact nearest_isLeastArg _ _
  case px =>
    rw [State.px, State.px, hread i]
    split <;> rfl
  case changed =>
    refine exists_congr fun i => and_congr_right fun hi => ?_
    rw [State.clustering_lab, State.clustering_lab, hread i, if_pos hi]
  case iter =>
    rw [exec_iter ht (by decide), exec_iter hc (by decide), exec_iter hb (by decide), exec_iter ha (by decide)]
  case memories =>
    exact (((exec_sameMemories ha (by decide)).trans (exec_sameMemories hb (by decide))).trans
      (exec_sameMemories hc (by decide))).trans (exec_sameMemories ht (by decide))

/-- Settles O28: the round from a state whose `STATUS` is any. -/
theorem fourPhasesComputeOneRound : Obligations.FourPhasesComputeOneRound := by
  intro s hn hph hscript
  obtain ⟨t, hrun, hat, hround⟩ := EngineAt.round ⟨rfl, hscript, rfl, hn, hph⟩
  exact ⟨t, hrun.run, hat.ph, hround.isRound, hround.px, hround.changed⟩

end Sys2Proof.Machine

/-! Proofs about a whole command of the renderer, and `ARGCHK` as both commands meet it (40 R123; 44 R205, R207). -/

namespace Sys2Proof.Machine

/-- `STATUS` while a command runs. -/
abbrev busyStatus : Status := ⟨true, false, false, 0, 0⟩

/-- The accepted command stands before `ARGCHK`. -/
theorem EngineAt.ofStart {s : State} (hscript : s.script = []) (hlegal : LegalNumpix s.numpix.toNat) (o : BitVec 2) :
    EngineAt busyStatus s.numpix.toNat PhaseCode.argchk (s.clearFlags.start o) :=
  ⟨rfl, hscript, rfl, hlegal.2.1, rfl⟩

/-- `ARGCHK` with a legal `NUMPIX` writes `PH` alone. -/
theorem EngineAt.argchk {x : Status} {n : Nat} {s : State} (h : EngineAt x n PhaseCode.argchk s)
    (hlegal : LegalNumpix n) :
    EngineRun x 1 s (s.goto (if s.op = 1 then PhaseCode.copy else PhaseCode.expand)) ∧
      EngineAt x n (if s.op = 1 then PhaseCode.copy else PhaseCode.expand)
        (s.goto (if s.op = 1 then PhaseCode.copy else PhaseCode.expand)) := by
  have hexec := exec_argchk_ok (s := s) (argError_of_legal (by rwa [h.numpix]))
  exact ⟨h.run rfl hexec, h.status, h.script, h.numpix, h.fits, rfl⟩

/-! ## `RENDER` (44 R205, R207) -/

/-- Settles O59: `ARGCHK` goes to `EXPAND`, and `FINISH` follows. -/
theorem renderEndsAfterThreeStepsWithTheImage : Obligations.RenderEndsAfterThreeStepsWithTheImage := by
  intro s hidle hph hscript hlegal
  have hstart : exec .render s = .next (s.clearFlags.start 2) := by rw [exec_render, State.accept_idle _ hidle]
  obtain ⟨hrunArgchk, hat⟩ := (EngineAt.ofStart hscript hlegal 2).argchk hlegal
  rw [if_neg (by simp)] at hrunArgchk hat
  have hexpand : exec .expand ((s.clearFlags.start 2).goto PhaseCode.expand) = .next _ := exec_expand hlegal.2.1
  have hatFinish : EngineAt busyStatus s.numpix.toNat PhaseCode.finish _ :=
    ⟨(exec_status hexpand (by decide)).trans hat.status, (exec_script hexpand).trans hat.script,
      (congrArg BitVec.toNat (exec_numpix hexpand)).trans hat.numpix, hat.fits, rfl⟩
  have hrun := (hrunArgchk.trans (hat.run rfl hexpand)).trans (hatFinish.run rfl (exec_finish _))
  obtain ⟨hpixel, hrest⟩ := exec_expand_reads hexpand
  refine ⟨_, _, hstart, hrun.run, ?frame, fun i hi => ⟨_, rfl, hpixel i hi⟩, hrest⟩
  case frame =>
    obtain ⟨⟩ := s
    obtain rfl := hph
    rfl

end Sys2Proof.Machine

/-! Proofs about whole `QUANTIZE` commands (40 R122, R128; 41 R155, R156; 43 R196; 10 R47). -/

namespace Sys2Proof.Machine

/-! ## From acceptance to the first round (41 R141 to R143) -/

theorem State.sameMemories_goto (s : State) (p : PhCode) : s.SameMemories (s.goto p) :=
  ⟨fun m => by cases m <;> rfl, rfl⟩

/-- What the phases before the first round leave on `n` pixels. -/
structure SeedHolds (n : Nat) (s t : State) : Prop where
  wrk : ∀ i, i < n → t.wrkRead i = ⟨s.srcPixel i, s.draw i⟩
  black : ∀ k, fileGet t.cent k = Rgb.black
  iter : t.iter = ⟨0, false⟩
  memories : s.SameMemories t

theorem EngineAt.seed {x : Status} {n : Nat} {s : State} (h : EngineAt x n PhaseCode.argchk s) (hop : s.op = 1)
    (hlegal : LegalNumpix n) :
    ∃ t, EngineRun x 4 s t ∧ EngineAt x n PhaseCode.clracc t ∧ SeedHolds n s t := by
  obtain ⟨hrunArgchk, hat⟩ := h.argchk hlegal
  rw [if_pos hop] at hrunArgchk hat
  obtain ⟨a, ha, hruna, hata⟩ := hat.phase .copy rfl (by decide)
  obtain ⟨b, hb, hrunb, hatb⟩ := hata.phase .seed rfl (by decide)
  obtain ⟨t, ht, hrunt, hatt⟩ := hatb.phase .clrcent rfl (by decide)
  refine ⟨t, ((hrunArgchk.trans hruna).trans hrunb).trans hrunt, hatt, fun i hi => ?wrk, fun k => ?black, ?iter,
    ?memories⟩
  case wrk =>
    rw [exec_wrkRead ht (by decide), exec_seed_reads hb, exec_copy_reads ha, exec_draw ha (by decide),
      hata.numpix, hat.numpix, if_pos hi, if_pos hi]
    rfl
  case black =>
    rw [eq_after_of_exec ht]
    exact fileGet_replicate _ k
  case iter => rw [exec_iter ht (by decide), eq_after_of_exec hb, State.after, State.goto_iter, State.dropDraws_iter]
  case memories =>
    have hcopy := (s.sameMemories_goto PhaseCode.copy).trans (exec_sameMemories ha (by decide))
    exact (hcopy.trans (exec_sameMemories hb (by decide))).trans (exec_sameMemories ht (by decide))

/-! ## A round and its end (41 R154, R156) -/

theorem exec_clustering {i : Instr} {s t : State} (h : exec i s = .next t)
    (hi : i ∉ [Instr.copy, .seed, .assign, .clrcent, .mean]) : t.clustering = s.clustering := by
  have hwrk : i ∉ [Instr.copy, .seed, .assign] := fun hm => hi (List.mem_append_left [Instr.clrcent, Instr.mean] hm)
  have hcent : i ∉ [Instr.clrcent, .mean] := fun hm =>
    hi (List.mem_append_right [Instr.copy, Instr.seed, Instr.assign] hm)
  simp only [State.clustering, exec_wrkRead h hwrk, exec_cent h hcent]

theorem exec_px {i : Instr} {s t : State} (h : exec i s = .next t) (hi : i ∉ [Instr.copy, .seed, .assign]) (j : Nat) :
    t.px j = s.px j :=
  congrArg WrkEntry.rgb (exec_wrkRead h hi j)

/-- What `ROUNDEND` decides while `CONV` is not set: leave the loop, or run one more round. -/
theorem EngineAt.roundend {x : Status} {n : Nat} {s : State} (h : EngineAt x n PhaseCode.roundend s)
    (hrounds : s.iter.rounds.toNat ≤ 23) (hconv : s.iter.conv = false) :
    ∃ t, exec .roundend s = .next t ∧ EngineRun x 1 s t ∧ t.iter.rounds.toNat = s.iter.rounds.toNat + 1 ∧
      ((EngineAt x n PhaseCode.palout t ∧ (t.iter.rounds.toNat = 24 ∨ s.changed = false) ∧
          (t.iter.conv = true ↔ s.changed = false)) ∨
        (EngineAt x n PhaseCode.clracc t ∧ t.iter.rounds.toNat ≤ 23 ∧ s.changed = true ∧ t.iter.conv = false)) := by
  obtain ⟨t, ht, hrun, hat⟩ := h.phase .roundend rfl (by decide)
  have hcount := exec_roundend_count ht hrounds
  refine ⟨t, ht, hrun, hcount, ?_⟩
  obtain ⟨hsame, hcap, hagain⟩ := roundendCountsAndLoopsOrLeaves s
  rw [nextPhase] at hat
  cases hchanged : s.changed with
  | false =>
    obtain rfl := Host.Outcome.next.inj ((hsame hchanged).symm.trans ht)
    rw [if_neg (by simp [hchanged])] at hat
    exact .inl ⟨hat, .inr rfl, iff_of_true rfl rfl⟩
  | true =>
    by_cases hlast : s.iter.rounds + 1 = 24
    · obtain rfl := Host.Outcome.next.inj ((hcap hchanged hlast).symm.trans ht)
      rw [if_neg fun hgo => hgo.2 hlast] at hat
      exact .inl ⟨hat, .inl rfl, iff_of_false (by simp [hconv]) (by decide)⟩
    · obtain rfl := Host.Outcome.next.inj ((hagain hchanged hlast).symm.trans ht)
      rw [if_pos ⟨hchanged, hlast⟩] at hat
      have hne : (s.iter.rounds + 1).toNat ≠ 24 := fun heq => hlast (BitVec.eq_of_toNat_eq heq)
      refine .inr ⟨hat, ?_, rfl, hconv⟩
      dsimp only at hcount ⊢
      omega

/-- A round and its end: the five phases of one pass of the loop. -/
theorem EngineAt.pass {x : Status} {n : Nat} {s : State} (h : EngineAt x n PhaseCode.clracc s)
    (hrounds : s.iter.rounds.toNat ≤ 23) (hconv : s.iter.conv = false) :
    ∃ u t, RoundHolds n s u ∧ exec .roundend u = .next t ∧ EngineRun x 5 s t ∧
      t.iter.rounds.toNat = s.iter.rounds.toNat + 1 ∧
      ((EngineAt x n PhaseCode.palout t ∧ (t.iter.rounds.toNat = 24 ∨ u.changed = false) ∧
          (t.iter.conv = true ↔ u.changed = false)) ∨
        (EngineAt x n PhaseCode.clracc t ∧ t.iter.rounds.toNat ≤ 23 ∧ u.changed = true ∧ t.iter.conv = false)) := by
  obtain ⟨u, hrunRound, hat, hround⟩ := h.round
  obtain ⟨t, ht, hrunEnd, hcount, hnext⟩ := hat.roundend (by rwa [hround.iter]) (by rwa [hround.iter])
  exact ⟨u, t, hround, ht, hrunRound.trans hrunEnd, by rw [hcount, hround.iter], hnext⟩

/-! ## The loop of rounds (41 R156) -/

/-- The clusterings `c, x 0, x 1, ...`. -/
def prepend (c : Clustering) (x : Nat → Clustering) : Nat → Clustering
  | 0 => c
  | q + 1 => x q

/-- What `m + 1` rounds from `s` leave in `t` before `PALOUT`, with the clusterings `x 0, ..., x (m + 1)`. -/
structure LoopHolds (n : Nat) (s t : State) (m : Nat) (x : Nat → Clustering) : Prop where
  first : x 0 = s.clustering
  last : x (m + 1) = t.clustering
  round : ∀ q, q ≤ m → IsRound n s.px (x q) (x (q + 1))
  goes : ∀ q, q < m → LabelsChanged n (x q) (x (q + 1))
  rounds : t.iter.rounds.toNat = s.iter.rounds.toNat + (m + 1)
  bound : t.iter.rounds.toNat ≤ 24
  stops : t.iter.rounds.toNat = 24 ∨ ¬ LabelsChanged n (x m) (x (m + 1))
  conv : t.iter.conv = true ↔ ¬ LabelsChanged n (x m) (x (m + 1))
  memories : s.SameMemories t

theorem RoundHolds.not_labelsChanged {n : Nat} {s u : State} (h : RoundHolds n s u) :
    u.changed = false ↔ ¬ LabelsChanged n s.clustering u.clustering := by
  rw [← h.changed, Bool.not_eq_true]

theorem RoundHolds.memories_roundend {n : Nat} {s u t : State} (hu : RoundHolds n s u)
    (ht : exec .roundend u = .next t) : s.SameMemories t :=
  hu.memories.trans (exec_sameMemories ht (by decide))

/-- The last pass of the loop. -/
theorem LoopHolds.lastPass {n : Nat} {s u t : State} (hu : RoundHolds n s u) (ht : exec .roundend u = .next t)
    (hle : s.iter.rounds.toNat ≤ 23) (hrounds : t.iter.rounds.toNat = s.iter.rounds.toNat + 1)
    (hstops : t.iter.rounds.toNat = 24 ∨ u.changed = false) (hconv : t.iter.conv = true ↔ u.changed = false) :
    LoopHolds n s t 0 (prepend s.clustering fun _ => u.clustering) where
  first := rfl
  last := (exec_clustering ht (by decide)).symm
  round q hq := by
    obtain rfl := Nat.le_zero.mp hq
    exact hu.isRound
  goes q hq := absurd hq (Nat.not_lt_zero q)
  rounds := hrounds
  bound := hrounds.trans_le (Nat.succ_le_succ hle)
  stops := hstops.imp_right hu.not_labelsChanged.mp
  conv := hconv.trans hu.not_labelsChanged
  memories := hu.memories_roundend ht

/-- A pass that goes on, and the passes after it. -/
theorem LoopHolds.cons {n m : Nat} {s u t v : State} {x : Nat → Clustering} (hu : RoundHolds n s u)
    (ht : exec .roundend u = .next t) (hrounds : t.iter.rounds.toNat = s.iter.rounds.toNat + 1)
    (hchanged : u.changed = true) (h : LoopHolds n t v m x) :
    LoopHolds n s v (m + 1) (prepend s.clustering x) := by
  have hfirst : x 0 = u.clustering := h.first.trans (exec_clustering ht (by decide))
  have hpx : t.px = s.px := funext fun i => (exec_px ht (by decide) i).trans (hu.px i)
  refine ⟨rfl, h.last, fun q hq => ?round, fun q hq => ?goes, ?rounds, h.bound, h.stops, h.conv,
    (hu.memories_roundend ht).trans h.memories⟩
  case round =>
    cases q with
    | zero =>
      rw [prepend, prepend, hfirst]
      exact hu.isRound
    | succ q => exact hpx ▸ h.round q (Nat.le_of_succ_le_succ hq)
  case goes =>
    cases q with
    | zero =>
      rw [prepend, prepend, hfirst]
      exact hu.changed.mp hchanged
    | succ q => exact h.goes q (Nat.lt_of_succ_lt_succ hq)
  case rounds => rw [h.rounds, hrounds, Nat.add_assoc, Nat.add_comm 1]

/-- The loop ends: each pass counts, and at 24 it does not go on. -/
theorem EngineAt.loop {x : Status} {n : Nat} (k : Nat) {s : State} (h : EngineAt x n PhaseCode.clracc s)
    (hk : s.iter.rounds.toNat + k = 23) (hconv : s.iter.conv = false) :
    ∃ t m y, EngineRun x (5 * (m + 1)) s t ∧ EngineAt x n PhaseCode.palout t ∧ LoopHolds n s t m y := by
  induction k generalizing s with
  | zero =>
    obtain ⟨u, t, hround, ht, hrun, hrounds, ⟨hat, hstops, hset⟩ | ⟨-, hle, -⟩⟩ := h.pass (by omega) hconv
    · exact ⟨t, 0, _, hrun, hat, .lastPass hround ht (by omega) hrounds hstops hset⟩
    · omega
  | succ k ih =>
    obtain ⟨u, t, hround, ht, hrun, hrounds, ⟨hat, hstops, hset⟩ | ⟨hat, hle, hchanged, hclear⟩⟩ :=
      h.pass (by omega) hconv
    · exact ⟨t, 0, _, hrun, hat, .lastPass hround ht (by omega) hrounds hstops hset⟩
    · obtain ⟨v, m, y, hrunRest, hatEnd, hloop⟩ := ih hat (by omega) hclear
      refine ⟨v, m + 1, _, ?_, hatEnd, .cons hround ht hrounds hchanged hloop⟩
      have hall := hrun.trans hrunRest
      rwa [show 5 + 5 * (m + 1) = 5 * (m + 1 + 1) by omega] at hall

/-! ## Palette, indices and the darkest colour (42 R170, R171; 43 R187, R189) -/

/-- What `PALOUT`, `PACK`, `LUMA` and `DARKEST` leave on `n` pixels. -/
structure OutputHolds (n : Nat) (s t : State) : Prop where
  iter : t.iter = s.iter
  src : t.src = s.src
  dst : t.dst = s.dst
  entry : ∀ k, t.palEntry k = s.clustering.cent k
  palRest : ∀ a, 48 ≤ a → t.memRead .pal a = s.memRead .pal a
  index : n % 2 = 0 → ∀ i, i < n → getnib (t.memRead .img) i = s.clustering.lab i
  imgRest : ∀ a, n / 2 ≤ a → t.memRead .img a = s.memRead .img a
  dark : IsLeastArg (fun k => luma1000 (s.clustering.cent k)) t.dark

theorem EngineAt.output {x : Status} {n : Nat} {s : State} (h : EngineAt x n PhaseCode.palout s) :
    ∃ t, EngineRun x 4 s t ∧ EngineAt x n PhaseCode.blackswap t ∧ OutputHolds n s t := by
  obtain ⟨a, ha, hruna, hata⟩ := h.phase .palout rfl (by decide)
  obtain ⟨b, hb, hrunb, hatb⟩ := hata.phase .pack rfl (by decide)
  obtain ⟨c, hc, hrunc, hatc⟩ := hatb.phase .luma rfl (by decide)
  obtain ⟨t, ht, hrunt, hatt⟩ := hatc.phase .darkest rfl (by decide)
  obtain ⟨hentry, hrest⟩ := exec_palout_reads ha
  have hpal (k : Label) : b.palEntry k = s.clustering.cent k := (exec_palEntry hb (by decide) k).trans (hentry k)
  have himg (j : Nat) : t.memRead .img j = b.memRead .img j :=
    (exec_memRead ht (by decide) j).trans (exec_memRead hc (by decide) j)
  refine ⟨t, ((hruna.trans hrunb).trans hrunc).trans hrunt, hatt, ?iter, ?src, ?dst, fun k => ?entry,
    fun j hj => ?palRest, fun heven i hi => ?index, fun j hj => ?imgRest, ?dark⟩
  case iter =>
    rw [exec_iter ht (by decide), exec_iter hc (by decide), exec_iter hb (by decide), exec_iter ha (by decide)]
  case src =>
    exact (((exec_mem (m := .src) ht (by decide)).trans (exec_mem (m := .src) hc (by decide))).trans
      (exec_mem (m := .src) hb (by decide))).trans (exec_mem (m := .src) ha (by decide))
  case dst =>
    exact (((exec_mem (m := .dst) ht (by decide)).trans (exec_mem (m := .dst) hc (by decide))).trans
      (exec_mem (m := .dst) hb (by decide))).trans (exec_mem (m := .dst) ha (by decide))
  case entry => rw [exec_palEntry ht (by decide), exec_palEntry hc (by decide), hpal]
  case palRest =>
    rw [exec_memRead ht (by decide), exec_memRead hc (by decide), exec_memRead hb (by decide), hrest j hj]
  case index =>
    rw [funext himg, packedIndexIsTheLabel a b (hata.numpix.trans_le hata.fits) (by rwa [hata.numpix]) hb i
      (by rwa [hata.numpix]), exec_wrkRead ha (by decide)]
    rfl
  case imgRest =>
    rw [himg, exec_pack_reads hb, hata.numpix, if_neg (Nat.not_lt.mpr hj), exec_memRead ha (by decide)]
  case dark =>
    rw [eq_after_of_exec ht, State.after, State.goto_dark]
    have hleast := darkest_isLeastArg c.lum
    simpa only [exec_luma_reads hc, hpal] using hleast

/-! ## Moving the darkest colour to slot 0 (43 R190 to R196) -/

/-- What `BLACKSWAP`, `LUTGEN`, `RELABEL` and `FINISH` leave on `n` pixels. -/
structure SwapHolds (n : Nat) (s t : State) : Prop where
  status : t.status = { s.status with busy := false, done := true }
  ph : t.ph = PhaseCode.idle
  numpix : t.numpix = s.numpix
  iter : t.iter = s.iter
  dark : t.dark = s.dark
  src : t.src = s.src
  dst : t.dst = s.dst
  entry : ∀ k, t.palEntry k = if k = 0 then Rgb.black else s.palEntry (swapidx s.dark k)
  palRest : ∀ a, 48 ≤ a → t.memRead .pal a = s.memRead .pal a
  index : n % 2 = 0 → ∀ i, i < n → getnib (t.memRead .img) i = swapidx s.dark (getnib (s.memRead .img) i)
  imgRest : ∀ a, n / 2 ≤ a → t.memRead .img a = s.memRead .img a

theorem EngineAt.swap {x : Status} {n : Nat} {s : State} (h : EngineAt x n PhaseCode.blackswap s) :
    ∃ t, EngineRun x 4 s t ∧ SwapHolds n s t := by
  obtain ⟨a, ha, hruna, hata⟩ := h.phase .blackswap rfl (by decide)
  obtain ⟨b, hb, hrunb, hatb⟩ := hata.phase .lutgen rfl (by decide)
  obtain ⟨c, hc, hrunc, hatc⟩ := hatb.phase .relabel rfl (by decide)
  have hrunFinish := hatc.run rfl (exec_finish c)
  obtain ⟨hentry, hrest⟩ := exec_blackswap_reads ha
  have hdark : a.dark = s.dark := exec_dark ha (by decide)
  have himg (j : Nat) : a.memRead .img j = s.memRead .img j := exec_memRead ha (by decide) j
  refine ⟨_, ((hruna.trans hrunb).trans hrunc).trans hrunFinish, ?status, rfl, ?numpix, ?iter, ?dark, ?src, ?dst,
    fun k => ?entry, fun j hj => ?palRest, fun heven i hi => ?index, fun j hj => ?imgRest⟩
  case status => rw [State.goto_status, State.endBusy_status, hatc.status, h.status]
  case numpix => exact (exec_numpix hc).trans ((exec_numpix hb).trans (exec_numpix ha))
  case iter =>
    exact (exec_iter hc (by decide)).trans ((exec_iter hb (by decide)).trans (exec_iter ha (by decide)))
  case dark => exact (exec_dark hc (by decide)).trans ((exec_dark hb (by decide)).trans hdark)
  case src =>
    exact (exec_mem (m := .src) hc (by decide)).trans ((exec_mem (m := .src) hb (by decide)).trans
      (exec_mem (m := .src) ha (by decide)))
  case dst =>
    exact (exec_mem (m := .dst) hc (by decide)).trans ((exec_mem (m := .dst) hb (by decide)).trans
      (exec_mem (m := .dst) ha (by decide)))
  case entry =>
    exact (exec_palEntry hc (by decide) k).trans ((exec_palEntry hb (by decide) k).trans (hentry k))
  case palRest =>
    exact (exec_memRead hc (by decide) j).trans ((exec_memRead hb (by decide) j).trans (hrest j hj))
  case index =>
    have hbyte := exec_lutgen_relabel_reads hb hc (j := i / 2) (by rw [hata.numpix]; omega)
    rw [hdark, himg] at hbyte
    exact getnib_of_lutbyte hbyte
  case imgRest =>
    have hread := exec_relabel_reads hc j
    rw [hatb.numpix, if_neg (Nat.not_lt.mpr hj), exec_memRead hb (by decide), himg] at hread
    exact hread

/-! ## The whole command (40 R122, R128; 41 R155, R156) -/

theorem finalPalette_eq (cent : Label → Rgb) (d k : Label) :
    finalPalette cent d k = if k = 0 then Rgb.black else cent (swapidx d k) := by
  rw [finalPalette]
  by_cases hzero : k = 0
  · rw [if_pos hzero, if_pos hzero]
  by_cases hd : k = d
  · rw [if_neg hzero, if_neg hzero, if_pos hd, hd, swapidx_self]
  · rw [if_neg hzero, if_neg hzero, if_neg hd, swapidx_of_ne hzero hd]

theorem members_congr {n : Nat} {lab lab' : Nat → Label} (h : ∀ i, i < n → lab' i = lab i) (k : Label) :
    members n lab' k = members n lab k := by
  refine List.filter_congr fun i hi => ?_
  rw [h i (List.mem_range.mp hi)]

theorem lt_of_mem_members {n : Nat} {lab : Nat → Label} {k : Label} {i : Nat} (h : i ∈ members n lab k) : i < n :=
  List.mem_range.mp (List.mem_of_mem_filter h)

theorem meanOf_congr {n : Nat} {lab lab' : Nat → Label} {ch ch' : Nat → Byte} (hlab : ∀ i, i < n → lab' i = lab i)
    (hch : ∀ i, i < n → ch' i = ch i) (k : Label) : meanOf n lab' ch' k = meanOf n lab ch k := by
  have hsum : clusterSum n lab' ch' k = clusterSum n lab ch k := by
    rw [clusterSum, clusterSum, members_congr hlab]
    refine congrArg List.sum (List.map_congr_left fun i hi => ?_)
    rw [hch i (lt_of_mem_members hi)]
  rw [meanOf, meanOf, hsum, members_congr hlab]

/-- The clusterings agree on the first `n` pixels and on all centroids. -/
structure AgreeBelow (n : Nat) (x y : Clustering) : Prop where
  lab : ∀ i, i < n → y.lab i = x.lab i
  cent : ∀ k, y.cent k = x.cent k

/-- The centroids of a round depend on the first `n` pixels alone. -/
theorem roundCent_congr {n : Nat} {px px' : Nat → Rgb} {x y : Clustering} (hpx : ∀ i, i < n → px' i = px i)
    (h : AgreeBelow n x y) (k : Label) : roundCent n px' y k = roundCent n px x k := by
  have hch (f : Rgb → Byte) (i : Nat) (hi : i < n) : f (px' i) = f (px i) := by rw [hpx i hi]
  rw [roundCent, roundCent, members_congr h.lab, h.cent, meanOf_congr h.lab (hch Rgb.r), meanOf_congr h.lab (hch Rgb.g),
    meanOf_congr h.lab (hch Rgb.b)]

theorem IsRound.congr {n : Nat} {px px' : Nat → Rgb} {x y : Clustering} (hpx : ∀ i, i < n → px' i = px i)
    (h : IsRound n px x y) : IsRound n px' x y := by
  obtain ⟨hcent, hnearest⟩ := h
  refine ⟨fun k => ?cent, fun i hi => ?nearest⟩
  case cent => rw [hcent, roundCent_congr hpx ⟨fun _ _ => rfl, fun _ => rfl⟩]
  case nearest =>
    rw [hpx i hi]
    exact hnearest i hi

/-- The loop from what the first phases leave is the run of 41 R156. -/
theorem LoopHolds.isKmeansRun {n m : Nat} {s u t : State} {x : Nat → Clustering} (hseed : SeedHolds n s u)
    (h : LoopHolds n u t m x) : IsKmeansRun n s.srcPixel s.draw (m + 1) x := by
  have hrounds : t.iter.rounds.toNat = m + 1 := by
    rw [h.rounds, hseed.iter]
    exact Nat.zero_add _
  refine ⟨fun i hi => ?labels, fun k => ?black, fun q hq => ?round, fun q hq => h.goes q (by omega),
    Nat.succ_pos m, hrounds ▸ h.bound, ?stops⟩
  case labels => rw [h.first, State.clustering_lab, hseed.wrk i hi]
  case black => rw [h.first]; exact hseed.black k
  case round =>
    refine (h.round q (by omega)).congr fun i hi => ?_
    rw [State.px, hseed.wrk i hi]
  case stops =>
    have hstops := h.stops
    rwa [hrounds] at hstops

/-- Settles O58: the phases before the loop, the loop, the output, and the exchange, one after the other. -/
theorem quantizeComputesKmeansAndMovesDarkestToZero : Obligations.QuantizeComputesKmeansAndMovesDarkestToZero := by
  intro s hidle hscript hlegal
  have hstart : exec .quantize s = .next (s.clearFlags.start 1) := by rw [exec_quantize, State.accept_idle _ hidle]
  obtain ⟨u, hrunSeed, hatLoop, hseed⟩ := (EngineAt.ofStart hscript hlegal 1).seed rfl hlegal
  obtain ⟨v, m, x, hrunLoop, hatOut, hloop⟩ := hatLoop.loop 23 (by rw [hseed.iter]; rfl) (by rw [hseed.iter])
  obtain ⟨w, hrunOut, hatSwap, hout⟩ := hatOut.output
  obtain ⟨t, hrunSwap, hswap⟩ := hatSwap.swap
  have hrun := ((hrunSeed.trans hrunLoop).trans hrunOut).trans hrunSwap
  have hmem := hseed.memories.trans hloop.memories
  have hkmeans := hloop.isKmeansRun hseed
  refine ⟨_, t, m + 1, x, hstart, hrun.run, ?busy, hkmeans, ?status, hswap.ph, ?rounds, ?conv, ?dark,
    fun k => ?entry, fun i hi => ?index, fun a ha => ?imgRest, fun a ha => ?palRest, ?src, ?dst, ?numpix⟩
  case busy =>
    intro j hj
    obtain ⟨y, hy, hstatus⟩ := hrun.status j hj
    exact ⟨y, hy, by rw [hstatus]⟩
  case status => rw [hswap.status, hatSwap.status]
  case rounds =>
    rw [hswap.iter, hout.iter, hloop.rounds, hseed.iter]
    exact Nat.zero_add _
  case conv =>
    rw [hswap.iter, hout.iter]
    exact hloop.conv
  case dark =>
    rw [hswap.dark, hloop.last]
    exact hout.dark
  case entry => rw [hswap.entry, hswap.dark, finalPalette_eq, hout.entry, hloop.last]
  case index => rw [hswap.index hlegal.2.2 i hi, hout.index hlegal.2.2 i hi, hswap.dark, hloop.last]
  case imgRest =>
    rw [hswap.imgRest a ha, hout.imgRest a ha]
    exact State.memRead_congr .img hmem.epoch (hmem.mem .img) a
  case palRest =>
    rw [hswap.palRest a ha, hout.palRest a ha]
    exact State.memRead_congr .pal hmem.epoch (hmem.mem .pal) a
  case src => exact hswap.src.trans (hout.src.trans (hmem.mem .src))
  case dst => exact hswap.dst.trans (hout.dst.trans (hmem.mem .dst))
  case numpix => exact hswap.numpix.trans (BitVec.eq_of_toNat_eq hatSwap.numpix)

end Sys2Proof.Machine

/-! Proofs that the quantizer as a function has one result, and so the command leaks nothing (41 R156; 10 R47). -/

namespace Sys2Proof.Machine

/-! ## k-means runs are determined (41 R156) -/

theorem IsLeastArg.unique {f : Label → Nat} {j k : Label} (hj : IsLeastArg f j) (hk : IsLeastArg f k) : j = k := by
  obtain ⟨hjleast, hjfirst⟩ := hj
  obtain ⟨hkleast, hkfirst⟩ := hk
  rcases Nat.lt_trichotomy j.toNat k.toNat with hlt | heq | hgt
  · exact absurd (hjleast k) (Nat.not_le.mpr (hkfirst j hlt))
  · exact BitVec.eq_of_toNat_eq heq
  · exact absurd (hkleast j) (Nat.not_le.mpr (hjfirst k hgt))

theorem AgreeBelow.symm {n : Nat} {x y : Clustering} (h : AgreeBelow n x y) : AgreeBelow n y x :=
  ⟨fun i hi => (h.lab i hi).symm, fun k => (h.cent k).symm⟩

/-- Rounds on the same pixels from clusterings that agree end in clusterings that agree. -/
theorem IsRound.agree {n : Nat} {px px' : Nat → Rgb} {x x' y y' : Clustering} (hpx : ∀ i, i < n → px' i = px i)
    (hx : AgreeBelow n x x') (h : IsRound n px x y) (h' : IsRound n px' x' y') : AgreeBelow n y y' := by
  have hcent (k : Label) : y'.cent k = y.cent k := by rw [h'.1, h.1, roundCent_congr hpx hx]
  refine ⟨fun i hi => ?_, hcent⟩
  have hnearest := h'.2 i hi
  simp only [hpx i hi, hcent] at hnearest
  exact hnearest.unique (h.2 i hi)

theorem labelsChanged_congr {n : Nat} {x x' y y' : Clustering} (hx : AgreeBelow n x x') (hy : AgreeBelow n y y') :
    LabelsChanged n x' y' ↔ LabelsChanged n x y := by
  refine exists_congr fun i => and_congr_right fun hi => ?_
  rw [hx.lab i hi, hy.lab i hi]

/-- Runs on the same pixels from the same draws agree as long as both go on. -/
theorem IsKmeansRun.agree {n : Nat} {px px' : Nat → Rgb} {draw draw' : Nat → Label} {r r' : Nat}
    {x x' : Nat → Clustering} (hpx : ∀ i, i < n → px' i = px i) (hdraw : ∀ i, i < n → draw' i = draw i)
    (h : IsKmeansRun n px draw r x) (h' : IsKmeansRun n px' draw' r' x') (q : Nat) (hq : q ≤ r) (hq' : q ≤ r') :
    AgreeBelow n (x q) (x' q) := by
  induction q with
  | zero =>
    exact ⟨fun i hi => by rw [h.labels i hi, h'.labels i hi, hdraw i hi], fun k => by rw [h.black, h'.black]⟩
  | succ q ih => exact IsRound.agree hpx (ih (by omega) (by omega)) (h.round q hq) (h'.round q hq')

/-- A run that agrees with another does not go on after the round in which the other stopped. -/
theorem IsKmeansRun.rounds_le {n : Nat} {px px' : Nat → Rgb} {draw draw' : Nat → Label} {r r' : Nat}
    {x x' : Nat → Clustering} (h : IsKmeansRun n px draw r x) (h' : IsKmeansRun n px' draw' r' x')
    (hagree : ∀ q, q ≤ r → q ≤ r' → AgreeBelow n (x q) (x' q)) : r' ≤ r := by
  obtain ⟨hpos, -, hstop⟩ := h.stops
  obtain ⟨-, hcap, -⟩ := h'.stops
  by_contra hlt
  have hgoes := h'.goes (r - 1) (by omega)
  rw [Nat.sub_add_cancel hpos] at hgoes
  rcases hstop with rfl | hsame
  · omega
  · exact hsame ((labelsChanged_congr (hagree (r - 1) (by omega) (by omega)) (hagree r le_rfl (by omega))).mp hgoes)

/-! ## What the host can read is determined by the indices and the entries -/

/-- A byte of an image is its two pixels. -/
theorem eq_of_getnib_eq {M M' : Nat → Byte} {j : Nat} (heven : getnib M' (2 * j) = getnib M (2 * j))
    (hodd : getnib M' (2 * j + 1) = getnib M (2 * j + 1)) : M' j = M j := by
  rw [getnib_of_even _ (by omega), getnib_of_even _ (by omega), show 2 * j / 2 = j by omega] at heven
  rw [getnib_of_odd _ (by omega), getnib_of_odd _ (by omega), show (2 * j + 1) / 2 = j by omega] at hodd
  rw [← packByte_nibbles (M' j), heven, hodd, packByte_nibbles]

/-- A byte of the palette belongs to one entry. -/
theorem State.memRead_pal_of_palEntry {s t : State} (h : ∀ k, t.palEntry k = s.palEntry k) {a : Nat} (ha : a < 48) :
    t.memRead .pal a = s.memRead .pal a := by
  have hk : (BitVec.ofNat 4 (a / 3)).toNat = a / 3 := by rw [BitVec.toNat_ofNat, Nat.mod_eq_of_lt (by omega)]
  have hread := State.memRead_of_palEntry_eq (h (BitVec.ofNat 4 (a / 3))) (Nat.mod_lt a (by decide : 0 < 3))
  rwa [hk, Nat.div_add_mod] at hread

theorem Iter.eq_of_fields {x y : Iter} (hrounds : x.rounds.toNat = y.rounds.toNat)
    (hconv : x.conv = true ↔ y.conv = true) : x = y := by
  obtain ⟨rx, cx⟩ := x
  obtain ⟨ry, cy⟩ := y
  rw [Iter.mk.injEq]
  exact ⟨BitVec.eq_of_toNat_eq hrounds, Bool.eq_iff_iff.mpr hconv⟩

theorem State.srcPixel_congr {s s' : State} {i : Nat}
    (h : ∀ c, c < 3 → s'.memRead .src (4 * i + c) = s.memRead .src (4 * i + c)) : s'.srcPixel i = s.srcPixel i := by
  rw [State.srcPixel, State.srcPixel, Rgb.mk.injEq]
  exact ⟨h 0 (by decide), h 1 (by decide), h 2 (by decide)⟩

/-- Settles O60: both commands compute a run of k-means on the same pixels from the same draws, and these runs agree. -/
theorem quantizeLeaksNoEarlierScratch : Obligations.QuantizeLeaksNoEarlierScratch := by
  intro s s' hidle hidle' hscript hscript' hlegal hnumpix hsrc hdraw
  obtain ⟨a, t, r, x, hstart, hrun, hbusy, hkmeans, hstatus, -, hrounds, hconv, hdark, hentry, hindex, -⟩ :=
    quantizeComputesKmeansAndMovesDarkestToZero s hidle hscript hlegal
  obtain ⟨a', t', r', x', hstart', hrun', hbusy', hkmeans', hstatus', -, hrounds', hconv', hdark', hentry',
    hindex', -⟩ :=
    quantizeComputesKmeansAndMovesDarkestToZero s' hidle' hscript' (by rwa [hnumpix])
  rw [hnumpix] at hkmeans' hconv' hindex'
  have hagree := hkmeans.agree (fun i hi => State.srcPixel_congr (hsrc i · hi)) hdraw hkmeans'
  obtain rfl : r' = r := le_antisymm (hkmeans.rounds_le hkmeans' hagree)
    (hkmeans'.rounds_le hkmeans fun q hq hq' => (hagree q hq' hq).symm)
  have hlast := hagree r' le_rfl le_rfl
  have hdarkEq : t'.dark = t.dark := by
    simp only [hlast.cent] at hdark'
    exact hdark'.unique hdark
  refine ⟨a, a', t, t', _, hstart, hstart', hrun, hrun', fun j hj => ?busy, hstatus, hstatus'.trans hstatus.symm, ?iter,
    hdarkEq, fun b hb => ?pal, fun j hj => ?img⟩
  case busy =>
    obtain ⟨u, hu, hubusy⟩ := hbusy j hj
    obtain ⟨u', hu', hubusy'⟩ := hbusy' j hj
    exact ⟨u, u', hu, hu', hubusy, hubusy'⟩
  case iter =>
    refine Iter.eq_of_fields (hrounds'.trans hrounds.symm) ?_
    rw [hconv, hconv', labelsChanged_congr (hagree _ (Nat.sub_le _ _) (Nat.sub_le _ _)) hlast]
  case pal =>
    refine State.memRead_pal_of_palEntry (fun k => ?_) hb
    rw [hentry, hentry', hdarkEq, funext hlast.cent]
  case img =>
    have hnib (i : Nat) (hi : i < s.numpix.toNat) : getnib (t'.memRead .img) i = getnib (t.memRead .img) i := by
      rw [hindex i hi, hindex' i hi, hdarkEq, hlast.lab i hi]
    exact eq_of_getnib_eq (hnib _ (by omega)) (hnib _ (by omega))

end Sys2Proof.Machine
